-- ==== Sys2Proof/Word.lean ====
section
/-! DEFINITION. The word types of KGP-CORE (00_scope.md R7, R10): bytes, 64-bit registers, 128-bit blocks. -/

namespace Sys2Proof

/-- A byte, `u8` of 00_scope.md R7. -/
abbrev Byte := BitVec 8

/-- A register, a command word, a Feistel half or a subkey: `u64` of 00_scope.md R7. -/
abbrev Word := BitVec 64

/-- A block of 16 bytes, `u128` (00_scope.md R10). -/
abbrev Block := BitVec 128

end Sys2Proof
end

