-- ==== Sys2Proof/Config.lean ====
section
/-! DEFINITION. The OPEN parameters of KGP-CORE (00_scope.md R5) and its free values (93_implementation_defined.md).
None of them has a body: no proof can see a value. -/

namespace Sys2Proof

/-- A pair of substitution tables. The round functions take it as an argument (41_round_functions.md R131: "A model
takes both as parameters"), so that they can also be evaluated on the test instances of 95_test_vectors.md §2. -/
structure Tables where
  /-- SBOX_L, the LAPPLAND table: any function from 8 bits to 8 bits, not assumed bijective. -/
  sboxL : Byte → Byte
  /-- SBOX_M, the MISAKA table: any function from 8 bits to 8 bits, not assumed bijective. -/
  sboxM : Byte → Byte

/-- SBOX_L of the built chip, OPEN (00_scope.md R5, 93_implementation_defined.md I1; log 4). -/
opaque Config.sboxL : Byte → Byte

/-- SBOX_M of the built chip, OPEN (00_scope.md R5, 93_implementation_defined.md I1; log 4). -/
opaque Config.sboxM : Byte → Byte

/-- The tables of the built chip. -/
def Config.tables : Tables := { sboxL := Config.sboxL, sboxM := Config.sboxM }

/-- The value on the port ENT_MONO at the n-th draw: any 64-bit value, with no law from one to the next
(10_state.md R38, 93_implementation_defined.md I2; log 2). -/
opaque Config.entMono : Nat → Word

/-- The value on the port ENT_WALL at the n-th draw (10_state.md R38, 93_implementation_defined.md I2; log 2). -/
opaque Config.entWall : Nat → Word

/-- What a read of an unspecified register returns while BUSY, at the n-th draw
(70_reset_and_hazards.md R267, 93_implementation_defined.md I3; log 2). -/
opaque Config.busyRead : Nat → Word

/-- CMD_LATENCY as a model without time sees it: how many host actions, at most, land between the acceptance of a
command and its completion, at the n-th draw (00_scope.md R5, 93_implementation_defined.md I4; log 3). -/
opaque Config.cmdWindow : Nat → Nat

/-- KGP_BASE divided by 256 (20_memory.md R70, 93_implementation_defined.md I10; log 5). -/
opaque Config.basePage : Nat

/-- KGP_BASE, the base byte address of the register window: OPEN, a multiple of 256 (20_memory.md R70). -/
def Config.kgpBase : Nat := 256 * Config.basePage

end Sys2Proof
end

