-- ==== Sys2Proof/Syntax.lean ====
section
/-! DEFINITION. The commands of KGP-CORE, one constructor per row of spec/opcode_table.json (30_encoding.md R83). -/

namespace Sys2Proof

/-- A command. `inv` is INV, `nr` is NR, `len` is LEN and `last` is LAST (30_encoding.md R81, R82): NR and LEN are
unsigned counts, so they are natural numbers here, and `Instr.wellFormed` says that they fit their 5-bit fields. -/
inductive Instr where
  /-- Expand the key into the subkey file (41_round_functions.md R130). -/
  | ksched
  /-- The raw Feistel engine over the subkey file (40_feistel.md R105). -/
  | feistel (inv : Bool) (nr : Nat)
  /-- One block through the selected cipher (42_cipher_adapter.md R155). -/
  | cipher (inv : Bool)
  /-- The selected round function once (41_round_functions.md R128). -/
  | round
  /-- Open an encrypt stream (43_cbc_mode.md R180). -/
  | encStart
  /-- Encipher one plaintext block of a stream (43_cbc_mode.md R186). -/
  | encData (len : Nat) (last : Bool)
  /-- Open a decrypt stream (43_cbc_mode.md R192). -/
  | decStart (len : Nat) (last : Bool)
  /-- Decipher one ciphertext block of a stream (43_cbc_mode.md R196). -/
  | decData (len : Nat) (last : Bool)
  /-- Report a source read fault (44_control.md R210). -/
  | abortSrc
  /-- Report a sink write fault (44_control.md R212). -/
  | abortSnk
  /-- End any stream and any recorded error (44_control.md R215). -/
  | clear
  deriving DecidableEq, Repr

end Sys2Proof
end

