-- ==== Sys2Proof/WellFormed.lean ====
section
/-! DEFINITION. Which commands have a command word: the counts fit their 5-bit fields (30_encoding.md R81). -/

namespace Sys2Proof

/-- A count fits a 5-bit field of the CMD format: 0..31 (30_encoding.md R81). The legal range 0..16 is checked by the
command rules, not here (30_encoding.md R82). -/
abbrev fitsField (n : Nat) : Prop := n < 32

/-- The command has a command word: NR and LEN fit their fields (30_encoding.md R81, R82). -/
def Instr.wellFormed : Instr → Bool
  | .ksched => true
  | .feistel _ nr => decide (fitsField nr)
  | .cipher _ => true
  | .round => true
  | .encStart => true
  | .encData len _ => decide (fitsField len)
  | .decStart len _ => decide (fitsField len)
  | .decData len _ => decide (fitsField len)
  | .abortSrc => true
  | .abortSnk => true
  | .clear => true

end Sys2Proof
end

