-- ==== Sys2Proof/Decode.lean ====
section
/-! DEFINITION. The command word: its fields, the opcode map with mask and match, the decoder (total, rejecting by
name) and the encoder (30_encoding.md R80 to R87, spec/opcode_table.json). -/

namespace Sys2Proof

/-- The assigned opcodes (30_encoding.md R83). -/
inductive Opcode where
  | ksched | feistel | cipher | round | encStart | encData | decStart | decData | abortSrc | abortSnk | clear
  deriving DecidableEq, Repr

/-- Why a word is no command (30_encoding.md R84, R86). -/
inductive DecodeError where
  /-- OP is 0x0, 0x5, 0x6, 0x7 or 0xE. -/
  | reservedOpcode
  /-- A bit outside OP and outside the fields of the opcode is not 0. -/
  | nonzeroReservedBit
  deriving DecidableEq, Repr

/-- The OP column of 30_encoding.md R83. -/
def Opcode.code : Opcode → BitVec 4
  | .ksched => 0x1
  | .feistel => 0x2
  | .cipher => 0x3
  | .round => 0x4
  | .encStart => 0x8
  | .encData => 0x9
  | .decStart => 0xA
  | .decData => 0xB
  | .abortSrc => 0xC
  | .abortSnk => 0xD
  | .clear => 0xF

/-- The opcode map read from the code; the five reserved codes have no opcode (30_encoding.md R83, R86). -/
def Opcode.ofCode (c : BitVec 4) : Option Opcode :=
  match c.toNat with
  | 0x1 => some .ksched
  | 0x2 => some .feistel
  | 0x3 => some .cipher
  | 0x4 => some .round
  | 0x8 => some .encStart
  | 0x9 => some .encData
  | 0xA => some .decStart
  | 0xB => some .decData
  | 0xC => some .abortSrc
  | 0xD => some .abortSnk
  | 0xF => some .clear
  | _ => none

/-- The "mask" column of spec/opcode_table.json (30_encoding.md R84). -/
def Opcode.mask : Opcode → Word
  | .ksched => 0xFFFFFFFFFFFFFFFF
  | .feistel => 0xFFFFFFFFFFFF07EF
  | .cipher => 0xFFFFFFFFFFFFFFEF
  | .round => 0xFFFFFFFFFFFFFFFF
  | .encStart => 0xFFFFFFFFFFFFFFFF
  | .encData => 0xFFFFFFFFFFFFF81F
  | .decStart => 0xFFFFFFFFFFFFF81F
  | .decData => 0xFFFFFFFFFFFFF81F
  | .abortSrc => 0xFFFFFFFFFFFFFFFF
  | .abortSnk => 0xFFFFFFFFFFFFFFFF
  | .clear => 0xFFFFFFFFFFFFFFFF

/-- The "match" column of spec/opcode_table.json (30_encoding.md R84). -/
def Opcode.pattern : Opcode → Word
  | .ksched => 0x0000000000000001
  | .feistel => 0x0000000000000002
  | .cipher => 0x0000000000000003
  | .round => 0x0000000000000004
  | .encStart => 0x0000000000000008
  | .encData => 0x0000000000000009
  | .decStart => 0x000000000000000A
  | .decData => 0x000000000000000B
  | .abortSrc => 0x000000000000000C
  | .abortSnk => 0x000000000000000D
  | .clear => 0x000000000000000F

/-- `OP`, bits [3:0] (30_encoding.md R81). -/
def fieldOp (v : Word) : BitVec 4 := v.extractLsb' 0 4

/-- `inv = cmd[4]` (30_encoding.md R82). -/
def fieldInv (v : Word) : Bool := v.getLsbD 4

/-- `len = zext(cmd[9:5])` (30_encoding.md R82). -/
def fieldLen (v : Word) : Nat := (v.extractLsb' 5 5).toNat

/-- `last = cmd[10]` (30_encoding.md R82). -/
def fieldLast (v : Word) : Bool := v.getLsbD 10

/-- `nr = zext(cmd[15:11])` (30_encoding.md R82). -/
def fieldNr (v : Word) : Nat := (v.extractLsb' 11 5).toNat

/-- The command of an opcode with its operands assembled from the word (30_encoding.md R82, "fields used" of R83). -/
def Opcode.assemble (op : Opcode) (v : Word) : Instr :=
  match op with
  | .ksched => .ksched
  | .feistel => .feistel (fieldInv v) (fieldNr v)
  | .cipher => .cipher (fieldInv v)
  | .round => .round
  | .encStart => .encStart
  | .encData => .encData (fieldLen v) (fieldLast v)
  | .decStart => .decStart (fieldLen v) (fieldLast v)
  | .decData => .decData (fieldLen v) (fieldLast v)
  | .abortSrc => .abortSrc
  | .abortSnk => .abortSnk
  | .clear => .clear

/-- The decoder. It reads exactly one 64-bit word (30_encoding.md R80) and accepts it when its opcode is assigned and
`(v AND mask(op)) = match(op)` (R84); every other word is rejected by name (R86). -/
def decode (v : Word) : Except DecodeError Instr :=
  match Opcode.ofCode (fieldOp v) with
  | none => .error .reservedOpcode
  | some op => if v &&& op.mask = op.pattern then .ok (op.assemble v) else .error .nonzeroReservedBit

/-- `Encode(op, inv, len, last, nr) = zext_64(nr[4:0] ++ last ++ len[4:0] ++ inv ++ op[3:0])` (30_encoding.md R87). -/
def encodeFields (op : Opcode) (inv : Bool) (len : Nat) (last : Bool) (nr : Nat) : Word :=
  (BitVec.ofNat 5 nr ++ BitVec.ofBool last ++ BitVec.ofNat 5 len ++ BitVec.ofBool inv ++ op.code).setWidth 64

/-- The command word of a command; fields an opcode does not use are 0 (30_encoding.md R87). -/
def encode : Instr → Word
  | .ksched => encodeFields .ksched false 0 false 0
  | .feistel inv nr => encodeFields .feistel inv 0 false nr
  | .cipher inv => encodeFields .cipher inv 0 false 0
  | .round => encodeFields .round false 0 false 0
  | .encStart => encodeFields .encStart false 0 false 0
  | .encData len last => encodeFields .encData false len last 0
  | .decStart len last => encodeFields .decStart false len last 0
  | .decData len last => encodeFields .decData false len last 0
  | .abortSrc => encodeFields .abortSrc false 0 false 0
  | .abortSnk => encodeFields .abortSnk false 0 false 0
  | .clear => encodeFields .clear false 0 false 0

/-- The command word whose low `nbits` bits are `w`'s and whose other bits are 0. -/
def tableWord (nbits w : Nat) : Word := BitVec.ofNat 64 (w % 2 ^ nbits)

/-- The command the decoder reads from a table row's bits. A command is one 64-bit word written whole to CMD
(30_encoding.md R80), so there is one word and no order of words. -/
def decodeTableWord (nbits w : Nat) : Option Instr := (decode (tableWord nbits w)).toOption

end Sys2Proof
end

