-- ==== Sys2Proof/Machine/State.lean ====
section
/-! DEFINITION. The state of KGP-CORE as plain data: the record of 10_state.md R42 and, beside it, the outside world's
actions still to come and the counters of the free values; why a step can stop; the state after reset. -/

namespace Sys2Proof.Machine

/-- The stream state machine, STATUS.FSM (10_state.md R27). The codes 5..7 are never taken, so they have no
constructor (93_implementation_defined.md I12; log 7). -/
inductive Fsm where
  | idle | enc | dec | done | error
  deriving DecidableEq, Repr

/-- The error codes of STATUS.ERR (60_exceptions.md R230). The codes 8..15 are never produced, so they have no
constructor (93_implementation_defined.md I12; log 7). -/
inductive Err where
  | noError | sourceFault | sinkFault | unexpectedEnd | illegalCmd | badState | badLength | badRounds
  deriving DecidableEq, Repr

/-- The register map of 10_state.md R21, by name. -/
inductive Reg where
  | ctrl | cmd | status | errcmd
  | key0 | key1 | din0 | din1
  | dout0 | dout1 | dout2 | dout3
  | cv0 | cv1 | eseed0 | eseed1
  | sk (i : Fin 16)
  deriving DecidableEq, Repr

/-- A host access on the port: `(kind, idx, data)`, data present on a write (20_memory.md R61). -/
inductive Access where
  | read (idx : BitVec 5)
  | write (idx : BitVec 5) (data : Word)
  deriving DecidableEq, Repr

/-- A host access on a system bus with byte addresses: its byte address and its size in bytes (20_memory.md R62, R63).
The host's address space has no stated width, so an address is a natural number (log 5). -/
inductive BusAccess where
  | read (addr size : Nat)
  | write (addr size : Nat) (data : Word)
  deriving DecidableEq, Repr

/-- What the outside world does to the machine (00_scope.md R11, 70_reset_and_hazards.md R260; log 1). -/
inductive HostAction where
  /-- One access on the port. -/
  | access (a : Access)
  /-- `POLL`: read STATUS until its bit 0 is 0 (30_encoding.md R89). -/
  | poll
  /-- One access on a byte-addressed bus. -/
  | bus (b : BusAccess)
  /-- The reset input is asserted. -/
  | resetAssert
  /-- The reset input is released. -/
  | resetRelease
  deriving DecidableEq, Repr

/-- What one host read returned. -/
structure ReadRecord where
  idx : BitVec 5
  value : Word
  deriving DecidableEq, Repr

/-- The state (10_state.md R42). STATUS.BUSY is the view `pending.isSome` (R39; log 6). -/
structure State where
  /-- CTRL.CSEL: false = 0 = LAPPLAND, true = 1 = MISAKA (R22). -/
  csel : Bool
  /-- CTRL.APAD: the pad policy (R22). -/
  apad : Bool
  /-- CTRL.ESRC: the entropy source (R22). -/
  esrc : Bool
  /-- The pending command (R39). -/
  pending : Option Word
  /-- STATUS.FSM (R27). -/
  fsm : Fsm
  /-- STATUS.ERR (R28). -/
  err : Err
  /-- STATUS.OLEN, 0..32 (R29). -/
  olen : Fin 33
  /-- STATUS.WIB (R30). -/
  wib : Bool
  /-- ERRCMD (R31). -/
  errcmd : Word
  /-- KEY0 (R32). -/
  key0 : Word
  /-- KEY1 (R32). -/
  key1 : Word
  /-- DIN0 (R33). -/
  din0 : Word
  /-- DIN1 (R33). -/
  din1 : Word
  /-- DOUT0 (R34). -/
  dout0 : Word
  /-- DOUT1 (R34). -/
  dout1 : Word
  /-- DOUT2 (R34). -/
  dout2 : Word
  /-- DOUT3 (R34). -/
  dout3 : Word
  /-- CV0 (R35). -/
  cv0 : Word
  /-- CV1 (R35). -/
  cv1 : Word
  /-- ESEED0 (R36). -/
  eseed0 : Word
  /-- ESEED1 (R36). -/
  eseed1 : Word
  /-- The subkey file SK0..SK15 (R37). -/
  sk : Vector Word 16
  /-- The model's own: the outside world's actions still to come, oldest first (log 1). -/
  todo : List HostAction
  /-- The model's own: what the host's reads returned, newest first (log 11). -/
  reads : List ReadRecord
  /-- The model's own: how many host actions still land before the pending command completes (log 3). -/
  wait : Nat
  /-- The model's own: the counter of the free values (log 2). -/
  draws : Nat
  /-- The model's own: the reset input is asserted (log 10). -/
  inReset : Bool
  deriving DecidableEq, Repr

/-- Why the machine stops with a fault: never. Every error of KGP-CORE is a defined change of state
(60_exceptions.md R236) and no command hangs the engine (70_reset_and_hazards.md R270), so the type has no
constructor (log 15). Safe: nothing raises it. -/
inductive Fault
  deriving DecidableEq, Repr

/-- Why a step has no meaning. -/
inductive Refusal where
  /-- A command whose meaning is not written; raised by `exec` only. Safe. -/
  | notModelled (mnemonic : String)
  /-- A bus access of another size than 8 bytes (20_memory.md R61, R63; wider ones: log 19); raised by a host step. Safe. -/
  | accessNotWholeRegister
  /-- A bus access whose byte address is not a multiple of 8 (20_memory.md R63); raised by a host step. Safe. -/
  | accessMisaligned
  /-- A bus access outside the 256-byte window (93_implementation_defined.md I6); raised by a host step. Safe. -/
  | accessOutsideWindow
  deriving DecidableEq, Repr

/-- The state after reset (10_state.md R41, 70_reset_and_hazards.md R260, R261): every register 0, FSM = IDLE, no
pending command. The model's own fields: no action to come, nothing read, reset released (logs 1, 2, 3, 10, 11). -/
def State.reset : State where
  csel := false
  apad := false
  esrc := false
  pending := none
  fsm := .idle
  err := .noError
  olen := 0
  wib := false
  errcmd := 0
  key0 := 0
  key1 := 0
  din0 := 0
  din1 := 0
  dout0 := 0
  dout1 := 0
  dout2 := 0
  dout3 := 0
  cv0 := 0
  cv1 := 0
  eseed0 := 0
  eseed1 := 0
  sk := Vector.replicate 16 0
  todo := []
  reads := []
  wait := 0
  draws := 0
  inReset := false

end Sys2Proof.Machine
end

