-- ==== Sys2Proof/Machine/Bits.lean ====
section
/-! DEFINITION. The operators and block views of the pseudocode: rotations, lanes, the bytes and words of a block
(00_scope.md R7 to R10). -/

namespace Sys2Proof.Machine

/-- `rotl_N(x, s)`: with t = s mod N, x when t = 0, and otherwise `(x << t) OR (x >> (N - t))` (00_scope.md R8; log 18). -/
def rotl {n : Nat} (x : BitVec n) (s : Nat) : BitVec n :=
  let t := s % n
  if t = 0 then x else (x <<< t) ||| (x >>> (n - t))

/-- `rotr_N(x, s)`: with t = s mod N, x when t = 0, and otherwise `(x >> t) OR (x << (N - t))` (00_scope.md R8; log 18). -/
def rotr {n : Nat} (x : BitVec n) (s : Nat) : BitVec n :=
  let t := s % n
  if t = 0 then x else (x >>> t) ||| (x <<< (n - t))

/-- The k-bit view number j of a value, in little-endian order (00_scope.md R10). -/
def lane {n : Nat} (k : Nat) (x : BitVec n) (j : Nat) : BitVec k := x.extractLsb' (k * j) k

/-- `byte(B, i) = B[8i+7:8i]` (00_scope.md R9). -/
def byte {n : Nat} (x : BitVec n) (i : Nat) : Byte := lane 8 x i

/-- `W0(B) = B[63:0]` (00_scope.md R9). -/
def w0 (b : Block) : Word := lane 64 b 0

/-- `W1(B) = B[127:64]` (00_scope.md R9). -/
def w1 (b : Block) : Word := lane 64 b 1

/-- `blk(w0, w1) = w1 ++ w0` (00_scope.md R9). -/
def blk (lo hi : Word) : Block := hi ++ lo

/-- The value whose byte i is `f i` for i below `count` and whose other bits are 0 (00_scope.md R10). -/
def ofBytes (n count : Nat) (f : Nat → Byte) : BitVec n :=
  (List.range count).foldl (fun acc i => acc ||| ((f i).setWidth n <<< (8 * i))) 0

/-- The bytes of a value below index `count`, byte 0 first. -/
def bytesOf {n : Nat} (count : Nat) (x : BitVec n) : List Byte := (List.range count).map (byte x)

end Sys2Proof.Machine
end

