-- ==== Sys2Proof/Machine/Operands.lean ====
section
/-! DEFINITION. The operands the command rules read: the register map, the input block, the key, the chaining vector,
CTRL, the subkeys and the output area (10_state.md R21 to R37). Every operand of a command word stands in Decode.lean. -/

namespace Sys2Proof.Machine

/-- The register at a word index; every index 0..31 is mapped, and SK[i] is at index 16 + i (10_state.md R21). -/
def Reg.ofIndex (idx : BitVec 5) : Reg :=
  match idx.toNat with
  | 0 => .ctrl
  | 1 => .cmd
  | 2 => .status
  | 3 => .errcmd
  | 4 => .key0
  | 5 => .key1
  | 6 => .din0
  | 7 => .din1
  | 8 => .dout0
  | 9 => .dout1
  | 10 => .dout2
  | 11 => .dout3
  | 12 => .cv0
  | 13 => .cv1
  | 14 => .eseed0
  | 15 => .eseed1
  | n => .sk (Fin.ofNat 16 (n - 16))

/-- The word index of a register (10_state.md R21). -/
def Reg.index : Reg → BitVec 5
  | .ctrl => 0
  | .cmd => 1
  | .status => 2
  | .errcmd => 3
  | .key0 => 4
  | .key1 => 5
  | .din0 => 6
  | .din1 => 7
  | .dout0 => 8
  | .dout1 => 9
  | .dout2 => 10
  | .dout3 => 11
  | .cv0 => 12
  | .cv1 => 13
  | .eseed0 => 14
  | .eseed1 => 15
  | .sk i => BitVec.ofNat 5 (16 + i.val)

/-- The input block `blk(DIN0, DIN1)` (10_state.md R33). -/
def State.inputBlock (s : State) : Block := blk s.din0 s.din1

/-- The chaining vector `CV = blk(CV0, CV1)` (10_state.md R35). -/
def State.chainBlock (s : State) : Block := blk s.cv0 s.cv1

/-- Output block 0, `blk(DOUT0, DOUT1)` (10_state.md R34). -/
def State.outBlock0 (s : State) : Block := blk s.dout0 s.dout1

/-- Output block 1, `blk(DOUT2, DOUT3)` (10_state.md R34). -/
def State.outBlock1 (s : State) : Block := blk s.dout2 s.dout3

/-- The 32-byte output area `DOUT3 ++ DOUT2 ++ DOUT1 ++ DOUT0` (10_state.md R29). -/
def State.outArea (s : State) : BitVec 256 := s.dout3 ++ s.dout2 ++ s.dout1 ++ s.dout0

/-- The valid output bytes: bytes 0..OLEN-1 of the output area (10_state.md R29). -/
def State.output (s : State) : List Byte := bytesOf s.olen.val s.outArea

/-- The read value of CTRL, `zext_64(ESRC ++ APAD ++ CSEL)` (10_state.md R23). -/
def State.ctrlWord (s : State) : Word :=
  (BitVec.ofBool s.esrc ++ BitVec.ofBool s.apad ++ BitVec.ofBool s.csel).setWidth 64

/-- `SK[0..n-1]`, in order (40_feistel.md R105). -/
def State.subkeys (s : State) (n : Nat) : List Word := s.sk.toList.take n

end Sys2Proof.Machine
end

