-- ==== Sys2Proof/Machine/Flags.lean ====
section
/-! DEFINITION. STATUS: the codes of its fields, BUSY, and the whole word while idle and while BUSY
(10_state.md R25 to R30, 60_exceptions.md R230, 70_reset_and_hazards.md R267). -/

namespace Sys2Proof.Machine

/-- The value of STATUS.FSM (10_state.md R27). -/
def Fsm.code : Fsm → BitVec 3
  | .idle => 0
  | .enc => 1
  | .dec => 2
  | .done => 3
  | .error => 4

/-- The value of STATUS.ERR (60_exceptions.md R230). -/
def Err.code : Err → BitVec 4
  | .noError => 0
  | .sourceFault => 1
  | .sinkFault => 2
  | .unexpectedEnd => 3
  | .illegalCmd => 4
  | .badState => 5
  | .badLength => 6
  | .badRounds => 7

/-- STATUS.BUSY: 1 exactly while a command is pending (10_state.md R26, R39; log 6). -/
def State.busy (s : State) : Bool := s.pending.isSome

/-- The layout of STATUS: WIB[14], OLEN[13:8], ERR[7:4], FSM[3:1], BUSY[0], the rest 0 (10_state.md R25). -/
def statusLayout (wib : Bool) (olen : BitVec 6) (err : BitVec 4) (fsm : BitVec 3) (busy : Bool) : Word :=
  (BitVec.ofBool wib ++ olen ++ err ++ fsm ++ BitVec.ofBool busy).setWidth 64

/-- STATUS from the fields that hold it (10_state.md R25). -/
def State.statusWord (s : State) : Word :=
  statusLayout s.wib (BitVec.ofNat 6 s.olen.val) s.err.code s.fsm.code s.busy

/-- What STATUS reads while BUSY: BUSY is 1, WIB is its current value, and FSM, ERR and OLEN are bits 3:1, 7:4 and 13:8
of a free word (70_reset_and_hazards.md R267; log 9). -/
def State.busyStatusWord (s : State) (free : Word) : Word :=
  statusLayout s.wib (free.extractLsb' 8 6) (free.extractLsb' 4 4) (free.extractLsb' 1 3) true

end Sys2Proof.Machine
end

