-- ==== Sys2Proof/Machine/Ops.lean ====
section
/-! DEFINITION. The named operations over the registers: reading and writing one register, the output of a command,
the error entry and the way out of it, completion, reset (10_state.md, 20_memory.md R64, 60_exceptions.md R236). -/

namespace Sys2Proof.Machine

/-- The value a register holds, as a host reads it when BUSY = 0; CMD reads 0 (10_state.md R21, R24). -/
def readReg (s : State) : Reg → Word
  | .ctrl => s.ctrlWord
  | .cmd => 0
  | .status => s.statusWord
  | .errcmd => s.errcmd
  | .key0 => s.key0
  | .key1 => s.key1
  | .din0 => s.din0
  | .din1 => s.din1
  | .dout0 => s.dout0
  | .dout1 => s.dout1
  | .dout2 => s.dout2
  | .dout3 => s.dout3
  | .cv0 => s.cv0
  | .cv1 => s.cv1
  | .eseed0 => s.eseed0
  | .eseed1 => s.eseed1
  | .sk i => s.sk[i]

/-- A CMD write while BUSY = 0: v becomes the pending command (10_state.md R24). The number of host actions that land
before it completes is a free value (log 3). -/
def acceptCommand (v : Word) (s : State) : State :=
  { s with pending := some v, wait := Config.cmdWindow s.draws, draws := s.draws + 1 }

/-- The effect of a host write while BUSY = 0 (20_memory.md R64): CTRL keeps bits [2:0] (10_state.md R23), CMD accepts a
command (R24), a write to an RO register is ignored. -/
def writeReg (r : Reg) (v : Word) (s : State) : State :=
  match r with
  | .ctrl => { s with csel := v.getLsbD 0, apad := v.getLsbD 1, esrc := v.getLsbD 2 }
  | .cmd => acceptCommand v s
  | .status => s
  | .errcmd => s
  | .key0 => { s with key0 := v }
  | .key1 => { s with key1 := v }
  | .din0 => { s with din0 := v }
  | .din1 => { s with din1 := v }
  | .dout0 => s
  | .dout1 => s
  | .dout2 => s
  | .dout3 => s
  | .cv0 => s
  | .cv1 => s
  | .eseed0 => { s with eseed0 := v }
  | .eseed1 => { s with eseed1 := v }
  | .sk i => { s with sk := s.sk.set i v }

/-- The error entry `raise X(v)`: FSM <- ERROR, ERR <- code(X), ERRCMD <- v, OLEN <- 0, and no other register changes
(60_exceptions.md R236). -/
def errorEntry (x : Err) (v : Word) (s : State) : State :=
  { s with fsm := .error, err := x, errcmd := v, olen := 0 }

/-- The way out of the fatal state, and of any stream: what CLEAR writes (44_control.md R215, 60_exceptions.md R239). -/
def leaveError (s : State) : State :=
  { s with
    fsm := .idle, err := .noError, errcmd := 0, olen := 0, wib := false
    cv0 := 0, cv1 := 0, dout0 := 0, dout1 := 0, dout2 := 0, dout3 := 0 }

/-- In FSM = ERROR a command makes no change of state (60_exceptions.md R238, 30_encoding.md R85; log 14). -/
def unlessError (effect : State → State) (s : State) : State :=
  if s.fsm = .error then s else effect s

/-- A command that succeeds writes all four DOUT words and OLEN (10_state.md R29, R34). -/
def setOutput (out0 out1 : Block) (k : Nat) (s : State) : State :=
  { s with
    dout0 := w0 out0, dout1 := w1 out0, dout2 := w0 out1, dout3 := w1 out1, olen := Fin.ofNat 33 k }

/-- `CV <- C` (10_state.md R35). -/
def setChain (c : Block) (s : State) : State := { s with cv0 := w0 c, cv1 := w1 c }

/-- `for i in 0 .. 15: SK[i] <- sk[i]` (10_state.md R37). -/
def setSubkeys (ks : Vector Word 16) (s : State) : State := { s with sk := ks }

/-- `FSM <- f` (10_state.md R27). -/
def setFsm (f : Fsm) (s : State) : State := { s with fsm := f }

/-- The two entropy words of ENC_START (43_cbc_mode.md R180, R181): a fresh draw from the ports when ESRC = 0, and
ESEED0, ESEED1 when ESRC = 1 (10_state.md R36, R38; log 2). -/
def entropyWords (s : State) : Word × Word :=
  if s.esrc then (s.eseed0, s.eseed1) else (Config.entMono s.draws, Config.entWall s.draws)

/-- Sampling the ports uses up one draw (10_state.md R38; log 2). -/
def consumeEntropy (s : State) : State :=
  if s.esrc then s else { s with draws := s.draws + 1 }

/-- Completion: the engine step consumes the pending command and BUSY falls (10_state.md R26, R39, 30_encoding.md R85). -/
def complete (s : State) : State := { s with pending := none, wait := 0 }

/-- While reset is asserted every piece of state has its reset value and the pending command is discarded
(70_reset_and_hazards.md R260). The outside world keeps its own: its actions to come, what it has read, the draws (log 10). -/
def holdReset (s : State) : State :=
  { State.reset with inReset := true, todo := s.todo, reads := s.reads, draws := s.draws }

/-- Reset is released: every piece of state has its reset value (70_reset_and_hazards.md R260). -/
def releaseReset (s : State) : State := { holdReset s with inReset := false }

end Sys2Proof.Machine
end

