-- ==== Sys2Proof/Machine/Control.lean ====
section
/-! DEFINITION. The control commands ABORT_SRC, ABORT_SNK and CLEAR (44_control.md). -/

namespace Sys2Proof.Machine

/-- ABORT_SRC: the error entry with SOURCE_FAULT; ignored in ERROR (44_control.md R210). -/
def execAbortSrc (s : State) : Host.Outcome State Fault Refusal :=
  .next (unlessError (errorEntry .sourceFault (encode .abortSrc)) s)

/-- ABORT_SNK: the error entry with SINK_FAULT; ignored in ERROR (44_control.md R212). -/
def execAbortSnk (s : State) : Host.Outcome State Fault Refusal :=
  .next (unlessError (errorEntry .sinkFault (encode .abortSnk)) s)

/-- CLEAR, the one command that executes in every state, ERROR included (44_control.md R215). -/
def execClear (s : State) : Host.Outcome State Fault Refusal := .next (leaveError s)

end Sys2Proof.Machine
end

