-- ==== Sys2Proof/Machine/RoundFunctions.lean ====
section
/-! DEFINITION. The round functions, the key schedules, and the ROUND and KSCHED commands (41_round_functions.md). The
numeric literals are named constants (00_scope.md R6; log 17). -/

namespace Sys2Proof.Machine

/-- LAPPLAND byte-rotation modulus (00_scope.md R6). -/
def lapByteModulus : Nat := 7

/-- LAPPLAND accumulator shift (00_scope.md R6). -/
def lapShift : Nat := 8

/-- LAPPLAND word-rotation modulus (00_scope.md R6). -/
def lapWordModulus : Nat := 63

/-- MISAKA left rotation (00_scope.md R6). -/
def misLeft : Nat := 7

/-- MISAKA right rotation (00_scope.md R6). -/
def misRight : Nat := 3

/-- CIPHER_ROUNDS, for both ciphers: the number of subkeys of a schedule (00_scope.md R5, R6, 42_cipher_adapter.md R154). -/
abbrev cipherRounds : Nat := 16

/-- The byte-rotation amount `(acc + j) mod 7`, acc as it stands before this byte's OR (41_round_functions.md R120). -/
def lapAmount (acc : Word) (j : Nat) : Nat := (acc + BitVec.ofNat 64 j).toNat % lapByteModulus

/-- One byte of LapRound's loop: substitute, rotate as a byte, OR, and shift except after byte 7 (41_round_functions.md R120). -/
def lapStep (sbox : Byte → Byte) (half : Word) (acc : Word) (j : Nat) : Word :=
  let b := sbox (byte half j)
  let r := rotl b (lapAmount acc j)
  let acc := acc ||| r.setWidth 64
  if j < 7 then acc <<< lapShift else acc

/-- LapRound's accumulator after the bytes 0..count-1, least significant byte first (41_round_functions.md R120). -/
def lapLoop (sbox : Byte → Byte) (half : Word) (count : Nat) : Word :=
  (List.range count).foldl (lapStep sbox half) 0

/-- LapRound, the LAPPLAND round function (41_round_functions.md R120). -/
def lapRound (sbox : Byte → Byte) (half sk : Word) : Word :=
  let acc := lapLoop sbox half 8
  (acc ^^^ rotr acc (acc.toNat % lapWordModulus)) ^^^ sk

/-- LapSchedule: `sk[i] = k[i mod 2] XOR rotl_64(k[i mod 2], i)` (41_round_functions.md R122). -/
def lapSchedule (k0 k1 : Word) : Vector Word 16 :=
  Vector.ofFn fun i : Fin cipherRounds =>
    let k := if i.val % 2 = 0 then k0 else k1
    k ^^^ rotl k i.val

/-- MisRound's substitution: each byte in place, independently (41_round_functions.md R124). -/
def misSubst (sbox : Byte → Byte) (half : Word) : Word := ofBytes 64 8 fun j => sbox (byte half j)

/-- MisRound, the MISAKA round function (41_round_functions.md R124). -/
def misRound (sbox : Byte → Byte) (half sk : Word) : Word :=
  let h := misSubst sbox half
  (h + (rotl h misLeft ^^^ rotr h misRight)) ^^^ sk

/-- MisSchedule: `sk[i] = rotl_64(k[i mod 2], i) XOR rotr_64(k[1 - (i mod 2)], i)` (41_round_functions.md R126). -/
def misSchedule (k0 k1 : Word) : Vector Word 16 :=
  Vector.ofFn fun i : Fin cipherRounds =>
    let k := if i.val % 2 = 0 then k0 else k1
    let k' := if i.val % 2 = 0 then k1 else k0
    rotl k i.val ^^^ rotr k' i.val

/-- The round function CTRL.CSEL selects (40_feistel.md R108). -/
def roundFn (T : Tables) (csel : Bool) : Word → Word → Word :=
  if csel then misRound T.sboxM else lapRound T.sboxL

/-- `Schedule(csel, k)`, the key schedule CTRL.CSEL selects (41_round_functions.md R129). -/
def schedule (csel : Bool) (k0 k1 : Word) : Vector Word 16 :=
  if csel then misSchedule k0 k1 else lapSchedule k0 k1

/-- ROUND in a state other than ERROR: DOUT0 <- F(DIN0, DIN1), the other output words 0, OLEN <- 8
(41_round_functions.md R128). -/
def roundEffect (T : Tables) (s : State) : State :=
  setOutput (blk (roundFn T s.csel s.din0 s.din1) 0) 0 8 s

/-- ROUND (41_round_functions.md R128). -/
def execRound (s : State) : Host.Outcome State Fault Refusal :=
  .next (unlessError (roundEffect Config.tables) s)

/-- KSCHED in a state other than ERROR: SK <- Schedule(CSEL, KEY), no output, OLEN <- 0 (41_round_functions.md R130). -/
def kschedEffect (s : State) : State :=
  setOutput 0 0 0 (setSubkeys (schedule s.csel s.key0 s.key1) s)

/-- KSCHED (41_round_functions.md R130). -/
def execKsched (s : State) : Host.Outcome State Fault Refusal :=
  .next (unlessError kschedEffect s)

end Sys2Proof.Machine
end

