-- ==== Sys2Proof/Machine/Feistel.lean ====
section
/-! DEFINITION. The Feistel network and the FEISTEL command (40_feistel.md). -/

namespace Sys2Proof.Machine

/-- The loop of Feistel_W over the subkeys in the order they are used: `(L, R) <- (R, F(R, k) XOR L)` (40_feistel.md R100). -/
def feistelRounds {n : Nat} (F : BitVec n → BitVec n → BitVec n) :
    List (BitVec n) → BitVec n × BitVec n → BitVec n × BitVec n
  | [], lr => lr
  | k :: ks, lr => feistelRounds F ks (lr.2, F lr.2 k ^^^ lr.1)

/-- `Feistel_W(n, k[0..n-1], F, L, R, inv)`, for any half width: with inv the subkeys are used in reverse order, and
the halves are exchanged once more after the loop (40_feistel.md R100, R102). -/
def feistel {n : Nat} (F : BitVec n → BitVec n → BitVec n) (ks : List (BitVec n)) (l r : BitVec n) (inv : Bool) :
    BitVec n × BitVec n :=
  let lr := feistelRounds F (if inv then ks.reverse else ks) (l, r)
  (lr.2, lr.1)

/-- Feistel_64 on a block: L is W0, R is W1, and the result pair is joined the same way (40_feistel.md R101). -/
def feistelBlock (F : Word → Word → Word) (ks : List Word) (b : Block) (inv : Bool) : Block :=
  let lr := feistel F ks (w0 b) (w1 b) inv
  blk lr.1 lr.2

/-- The largest FEISTEL round count, MAX_NR (00_scope.md R5). -/
def maxNr : Nat := 16

/-- FEISTEL in a state other than ERROR (40_feistel.md R105): BAD_ROUNDS for NR above 16, else NR rounds over
SK[0..NR-1] with the round function CTRL.CSEL selects (R108). `v` is the command word. -/
def feistelEffect (T : Tables) (inv : Bool) (nr : Nat) (v : Word) (s : State) : State :=
  if nr > maxNr then errorEntry .badRounds v s
  else setOutput (feistelBlock (roundFn T s.csel) (s.subkeys nr) s.inputBlock inv) 0 16 s

/-- FEISTEL (40_feistel.md R105). -/
def execFeistel (inv : Bool) (nr : Nat) (s : State) : Host.Outcome State Fault Refusal :=
  .next (unlessError (feistelEffect Config.tables inv nr (encode (.feistel inv nr))) s)

end Sys2Proof.Machine
end

