-- ==== Sys2Proof/Machine/Cipher.lean ====
section
/-! DEFINITION. The cipher adapter, key whitening and the CIPHER command (42_cipher_adapter.md). -/

namespace Sys2Proof.Machine

/-- `Whiten(B, k) = blk(W0(B) XOR k[0], W1(B) XOR k[1])` (42_cipher_adapter.md R152). -/
def whiten (b : Block) (k0 k1 : Word) : Block := blk (w0 b ^^^ k0) (w1 b ^^^ k1)

/-- The block `Adapter(csel, k, B, inv)` returns: 16 rounds over the schedule of the key, with whitening on both sides
for MISAKA only (42_cipher_adapter.md R150, R152, R154). -/
def adapter (T : Tables) (csel : Bool) (k0 k1 : Word) (b : Block) (inv : Bool) : Block :=
  let ks := (schedule csel k0 k1).toList
  if csel then whiten (feistelBlock (misRound T.sboxM) ks (whiten b k0 k1) inv) k0 k1
  else feistelBlock (lapRound T.sboxL) ks b inv

/-- `E(B)` for inv = false and `D(B)` for inv = true, under CTRL.CSEL and KEY (42_cipher_adapter.md R150). -/
def State.crypt (T : Tables) (s : State) (b : Block) (inv : Bool) : Block :=
  adapter T s.csel s.key0 s.key1 b inv

/-- The side effect of every adapter call: SK <- Schedule(CSEL, KEY) (42_cipher_adapter.md R151). -/
def writeSchedule (s : State) : State := setSubkeys (schedule s.csel s.key0 s.key1) s

/-- CIPHER in a state other than ERROR (42_cipher_adapter.md R155). -/
def cipherEffect (T : Tables) (inv : Bool) (s : State) : State :=
  setOutput (s.crypt T s.inputBlock inv) 0 16 (writeSchedule s)

/-- CIPHER (42_cipher_adapter.md R155). -/
def execCipher (inv : Bool) (s : State) : Host.Outcome State Fault Refusal :=
  .next (unlessError (cipherEffect Config.tables inv) s)

end Sys2Proof.Machine
end

