-- ==== Sys2Proof/Machine/Stream.lean ====
section
/-! DEFINITION. The CBC streaming mode engine: padding and pad stripping, ENC_START, ENC_DATA, DEC_START and DEC_DATA
(43_cbc_mode.md). -/

namespace Sys2Proof.Machine

/-- `Pad(P, n)`: keep bytes 0..n-1 and fill the rest with the byte 16 - n (43_cbc_mode.md R176). -/
def pad (p : Block) (n : Nat) : Block :=
  ofBytes 128 16 fun i => if i < n then byte p i else BitVec.ofNat 8 (16 - n)

/-- The pad check of StripLen: bytes 16-p..15 all equal the last byte, whose value is p (43_cbc_mode.md R177). -/
def padValid (b : Block) (p : Nat) : Bool :=
  decide (1 ≤ p ∧ p ≤ 16) && (List.range 16).all fun i => decide (i < 16 - p) || byte b i == BitVec.ofNat 8 p

/-- `StripLen(P)` (43_cbc_mode.md R177). -/
def stripLen (b : Block) : Nat :=
  let p := (byte b 15).toNat
  if padValid b p then p else 0

/-- A stream may be opened: FSM is IDLE or DONE (43_cbc_mode.md R170). -/
def canStart (f : Fsm) : Bool :=
  match f with
  | .idle => true
  | .enc => false
  | .dec => false
  | .done => true
  | .error => false

/-- ENC_START in a state other than ERROR (43_cbc_mode.md R180). `v` is the command word. -/
def encStartEffect (T : Tables) (v : Word) (s : State) : State :=
  if canStart s.fsm then
    let (m, w) := entropyWords s
    let c := s.crypt T (blk m w) false
    setFsm .enc (setOutput c 0 16 (setChain c (writeSchedule (consumeEntropy s))))
  else errorEntry .badState v s

/-- ENC_START (43_cbc_mode.md R180). -/
def execEncStart (s : State) : Host.Outcome State Fault Refusal :=
  .next (unlessError (encStartEffect Config.tables (encode .encStart)) s)

/-- One link of the encrypt chain: `C <- E(P XOR CV) ; CV <- C`, with the adapter's write of SK (43_cbc_mode.md R186). -/
def encipherLink (T : Tables) (p : Block) (s : State) : State :=
  setChain (s.crypt T (p ^^^ s.chainBlock) false) (writeSchedule s)

/-- The end of a stream: FSM <- DONE when LAST = 1 (43_cbc_mode.md R186, R196). -/
def finishIf (last : Bool) (s : State) : State := if last then setFsm .done s else s

/-- ENC_DATA once its checks have passed: the cases (a) to (d) of 43_cbc_mode.md R186. -/
def encDataBody (T : Tables) (n : Nat) (last : Bool) (s : State) : State :=
  let p := s.inputBlock
  if n = 16 then
    let s1 := encipherLink T p s
    if last && s.apad then
      let s2 := encipherLink T (pad p 0) s1
      setOutput s1.chainBlock s2.chainBlock 32 s2
    else setOutput s1.chainBlock 0 16 s1
  else if 1 ≤ n then
    let s1 := encipherLink T (pad p n) s
    setOutput s1.chainBlock 0 16 s1
  else if s.apad then
    let s1 := encipherLink T (pad p 0) s
    setOutput s1.chainBlock 0 16 s1
  else setOutput 0 0 0 s

/-- ENC_DATA in a state other than ERROR: its checks in the order of 60_exceptions.md R240, then its cases
(43_cbc_mode.md R186). `v` is the command word. -/
def encDataEffect (T : Tables) (n : Nat) (last : Bool) (v : Word) (s : State) : State :=
  if s.fsm ≠ .enc then errorEntry .badState v s
  else if n > 16 then errorEntry .badLength v s
  else if n < 16 ∧ last = false then errorEntry .badLength v s
  else finishIf last (encDataBody T n last s)

/-- ENC_DATA (43_cbc_mode.md R186). -/
def execEncData (len : Nat) (last : Bool) (s : State) : Host.Outcome State Fault Refusal :=
  .next (unlessError (encDataEffect Config.tables len last (encode (.encData len last))) s)

/-- DEC_START in a state other than ERROR (43_cbc_mode.md R192). `v` is the command word. -/
def decStartEffect (n : Nat) (last : Bool) (v : Word) (s : State) : State :=
  if canStart s.fsm then
    if n > 16 then errorEntry .badLength v s
    else if n < 16 then errorEntry .unexpectedEnd v s
    else setFsm (if last then .done else .dec) (setOutput 0 0 0 (setChain s.inputBlock s))
  else errorEntry .badState v s

/-- DEC_START (43_cbc_mode.md R192). -/
def execDecStart (len : Nat) (last : Bool) (s : State) : Host.Outcome State Fault Refusal :=
  .next (unlessError (decStartEffect len last (encode (.decStart len last))) s)

/-- DEC_DATA once its checks have passed, for a whole block: `P <- D(C) XOR CV ; CV <- C`, and the pad is stripped from
the count when LAST = 1 (43_cbc_mode.md R196, R198). -/
def decDataBody (T : Tables) (last : Bool) (s : State) : State :=
  let c := s.inputBlock
  let p := s.crypt T c true ^^^ s.chainBlock
  setOutput p 0 (if last then 16 - stripLen p else 16) (setChain c (writeSchedule s))

/-- DEC_DATA in a state other than ERROR: its checks in the order of its pseudocode, then the boundary end (LEN = 0) or
one block (43_cbc_mode.md R196). `v` is the command word. -/
def decDataEffect (T : Tables) (n : Nat) (last : Bool) (v : Word) (s : State) : State :=
  if s.fsm ≠ .dec then errorEntry .badState v s
  else if n > 16 then errorEntry .badLength v s
  else if 1 ≤ n ∧ n ≤ 15 then errorEntry .badLength v s
  else if n = 0 ∧ last = false then errorEntry .badLength v s
  else if n = 0 then setFsm .done (setOutput 0 0 0 s)
  else finishIf last (decDataBody T last s)

/-- DEC_DATA (43_cbc_mode.md R196). -/
def execDecData (len : Nat) (last : Bool) (s : State) : Host.Outcome State Fault Refusal :=
  .next (unlessError (decDataEffect Config.tables len last (encode (.decData len last))) s)

end Sys2Proof.Machine
end

