-- ==== Sys2Proof/Machine/Dispatch.lean ====
section
/-! DEFINITION. The meaning of each command, one arm per constructor of Instr (30_encoding.md R83). -/

namespace Sys2Proof.Machine

def exec (i : Instr) (s : State) : Host.Outcome State Fault Refusal :=
  match i with
  | .ksched => Sys2Proof.Machine.execKsched s
  | .feistel inv nr => Sys2Proof.Machine.execFeistel inv nr s
  | .cipher inv => Sys2Proof.Machine.execCipher inv s
  | .round => Sys2Proof.Machine.execRound s
  | .encStart => Sys2Proof.Machine.execEncStart s
  | .encData len last => Sys2Proof.Machine.execEncData len last s
  | .decStart len last => Sys2Proof.Machine.execDecStart len last s
  | .decData len last => Sys2Proof.Machine.execDecData len last s
  | .abortSrc => Sys2Proof.Machine.execAbortSrc s
  | .abortSnk => Sys2Proof.Machine.execAbortSnk s
  | .clear => Sys2Proof.Machine.execClear s

end Sys2Proof.Machine
end

