-- ==== Sys2Proof/Machine/Port.lean ====
section
/-! DEFINITION. The host's side: reads and writes on the port, idle and while BUSY, POLL, the byte-addressed bus, the
reset input, and the host-side forms of 30_encoding.md R88 and R89 (20_memory.md, 70_reset_and_hazards.md R265 to R267). -/

namespace Sys2Proof.Machine

/-- The registers whose reads while BUSY are unspecified as a whole (70_reset_and_hazards.md R267); STATUS is
unspecified in part, see `State.busyStatusWord`. -/
def Reg.freeWhileBusy : Reg → Bool
  | .ctrl => false
  | .cmd => false
  | .status => false
  | .errcmd => true
  | .key0 => false
  | .key1 => false
  | .din0 => false
  | .din1 => false
  | .dout0 => true
  | .dout1 => true
  | .dout2 => true
  | .dout3 => true
  | .cv0 => true
  | .cv1 => true
  | .eseed0 => false
  | .eseed1 => false
  | .sk _ => true

/-- The value a host read returns. While BUSY: STATUS reads BUSY and WIB and is free elsewhere, the result registers
read a free value, and the others their held value (70_reset_and_hazards.md R267). -/
def readValue (s : State) (r : Reg) : Word :=
  if s.busy then
    if r = .status then s.busyStatusWord (Config.busyRead s.draws)
    else if r.freeWhileBusy then Config.busyRead s.draws
    else readReg s r
  else readReg s r

/-- A host read: it changes no register (20_memory.md R64). The host has the value, and one draw is used up (log 2). -/
def hostRead (idx : BitVec 5) (s : State) : State :=
  { s with
    reads := { idx := idx, value := readValue s (Reg.ofIndex idx) } :: s.reads
    draws := s.draws + 1 }

/-- A host write. While BUSY it is ignored, whatever its register, and sets WIB (70_reset_and_hazards.md R266). -/
def hostWrite (idx : BitVec 5) (v : Word) (s : State) : State :=
  if s.busy then { s with wib := true } else writeReg (Reg.ofIndex idx) v s

/-- One access on the port (20_memory.md R61). -/
def portAccess (a : Access) (s : State) : State :=
  match a with
  | .read idx => hostRead idx s
  | .write idx v => hostWrite idx v s

/-- One turn of the loop `L: RD STATUS; if bit 0 of the value is 1, go to L` (30_encoding.md R89): while BUSY the POLL
stays the next action. -/
def pollTurn (s : State) : State :=
  let t := hostRead Reg.status.index s
  if (readValue s .status).getLsbD 0 then { t with todo := .poll :: t.todo } else t

/-- The word index a bus access names, or why the port has no such access: it moves a whole register, at a byte address
that is a multiple of 8, inside the 256 bytes at KGP_BASE (20_memory.md R62, R63, R70; log 19). -/
def busIndex (addr size : Nat) : Except Refusal (BitVec 5) :=
  if size ≠ 8 then .error .accessNotWholeRegister
  else if addr % 8 ≠ 0 then .error .accessMisaligned
  else if addr < Config.kgpBase ∨ Config.kgpBase + 256 ≤ addr then .error .accessOutsideWindow
  else .ok (BitVec.ofNat 5 ((addr - Config.kgpBase) / 8))

/-- The port access a bus access is, or why the port has none (20_memory.md R62, R63). -/
def portAccessOf (b : BusAccess) : Except Refusal Access :=
  match b with
  | .read addr size => (busIndex addr size).map fun idx => .read idx
  | .write addr size v => (busIndex addr size).map fun idx => .write idx v

/-- One access on a byte-addressed bus (20_memory.md R62, R63). -/
def busAccess (b : BusAccess) (s : State) : Host.Outcome State Fault Refusal :=
  match portAccessOf b with
  | .ok x => .next (portAccess x s)
  | .error r => .refused r

/-- One bus access while reset is asserted: an access of the port is ignored (70_reset_and_hazards.md R260), and one the
port has not is refused then too, by the model's choice (20_memory.md R63, 93_implementation_defined.md I6; log 19). -/
def busAccessInReset (b : BusAccess) (s : State) : Host.Outcome State Fault Refusal :=
  match portAccessOf b with
  | .ok _ => .next (holdReset s)
  | .error r => .refused r

/-- One action of the outside world while reset is asserted: accesses are ignored, and every piece of state has its
reset value (70_reset_and_hazards.md R260; log 10). -/
def actionInReset (a : HostAction) (s : State) : Host.Outcome State Fault Refusal :=
  match a with
  | .access _ => .next (holdReset s)
  | .poll => .next (holdReset s)
  | .bus b => busAccessInReset b s
  | .resetAssert => .next (holdReset s)
  | .resetRelease => .next (releaseReset s)

/-- One action of the outside world while reset is not asserted. -/
def actionLive (a : HostAction) (s : State) : Host.Outcome State Fault Refusal :=
  match a with
  | .access x => .next (portAccess x s)
  | .poll => .next (pollTurn s)
  | .bus b => busAccess b s
  | .resetAssert => .next (holdReset s)
  | .resetRelease => .next s

/-- One action of the outside world. -/
def hostStep (a : HostAction) (s : State) : Host.Outcome State Fault Refusal :=
  if s.inReset then actionInReset a s else actionLive a s

/-- `WR <reg>, <value>` (30_encoding.md R88). -/
def wr (r : Reg) (v : Word) : HostAction := .access (.write r.index v)

/-- `RD <reg>` (30_encoding.md R88). -/
def rd (r : Reg) : HostAction := .access (.read r.index)

/-- `CMD <command>` (30_encoding.md R88). -/
def cmd (i : Instr) : HostAction := wr .cmd (encode i)

/-- `ISSUE <command>` (30_encoding.md R89). -/
def issue (i : Instr) : List HostAction := [cmd i, .poll]

/-- `ENC_FINAL len` (30_encoding.md R89). -/
def encFinal (len : Nat) : List HostAction := issue (.encData len true)

/-- `DEC_FINAL len` (30_encoding.md R89). -/
def decFinal (len : Nat) : List HostAction := issue (.decData len true)

/-- `LOADBLK w0, w1` (30_encoding.md R89). -/
def loadBlk (lo hi : Word) : List HostAction := [wr .din0 lo, wr .din1 hi]

/-- `LOADKEY k0, k1` (30_encoding.md R89). -/
def loadKey (k0 k1 : Word) : List HostAction := [wr .key0 k0, wr .key1 k1]

end Sys2Proof.Machine
end

