-- ==== Sys2Proof/Machine/Engine.lean ====
section
/-! DEFINITION. The engine's step on the pending command word, and who takes the next step (30_encoding.md R85,
00_scope.md R11, 70_reset_and_hazards.md R270). -/

namespace Sys2Proof.Machine

/-- A word that is no command: ILLEGAL_CMD, or ignored in FSM = ERROR (30_encoding.md R85, R86). -/
def illegalWord (v : Word) (s : State) : State := unlessError (errorEntry .illegalCmd v) s

/-- The rule a command word selects, before BUSY falls (30_encoding.md R85). -/
def runWord (v : Word) (s : State) : Host.Outcome State Fault Refusal :=
  match decode v with
  | .ok i => exec i s
  | .error _ => .next (illegalWord v s)

/-- An outcome followed by completion. -/
def completeOutcome : Host.Outcome State Fault Refusal → Host.Outcome State Fault Refusal
  | .next t => .next (complete t)
  | .fault r => .fault r
  | .refused r => .refused r

/-- The engine's step: the pending word runs and BUSY falls, all at one moment (30_encoding.md R85, 10_state.md R26). -/
def engineStep (v : Word) (s : State) : Host.Outcome State Fault Refusal := completeOutcome (runWord v s)

/-- Who takes the next step. -/
inductive Turn where
  /-- Nobody: no action to come and no command pending (60_exceptions.md R248). -/
  | idle
  /-- The engine completes the pending command `v`. -/
  | engine (v : Word)
  /-- The outside world's next action, and what is left of its list. -/
  | outside (a : HostAction) (rest : List HostAction)
  deriving DecidableEq, Repr

/-- A pending command completes when its window for host actions is used up or no action is left; before that the
outside world's next action lands (70_reset_and_hazards.md R270; log 3). While reset is asserted the engine is still. -/
def turn (s : State) : Turn :=
  match s.todo with
  | [] =>
    match s.pending with
    | some v => if s.inReset then .idle else .engine v
    | none => .idle
  | a :: rest =>
    match s.pending with
    | some v => if s.inReset = false ∧ s.wait = 0 then .engine v else .outside a rest
    | none => .outside a rest

/-- The outside world's turn: its action is taken from the list, and one place of the window is used up. -/
def outsideStep (a : HostAction) (rest : List HostAction) (s : State) : Host.Outcome State Fault Refusal :=
  hostStep a { s with todo := rest, wait := s.wait - 1 }

/-- A command word placed where the engine takes its next command from: it is the pending command, its window is used up
and reset is released (log 1). -/
def placeWord (v : Word) (s : State) : State := { s with pending := some v, wait := 0, inReset := false }

end Sys2Proof.Machine
end

