-- ==== Sys2Proof/Machine/Step.lean ====
section
/-! DEFINITION. One step of the machine: the engine's, or one action of the outside world (00_scope.md R11). -/

namespace Sys2Proof.Machine

/-- One step. With nothing pending and no action to come the state is held (60_exceptions.md R248). -/
def step (s : State) : Host.Outcome State Fault Refusal :=
  match turn s with
  | .idle => .next s
  | .engine v => engineStep v s
  | .outside a rest => outsideStep a rest s

/-- The state with a table row's word where the engine takes its next command from (10_state.md R39; log 1). -/
def State.withFetchWord (s : State) (nbits w : Nat) : State := placeWord (tableWord nbits w) s

end Sys2Proof.Machine
end

