-- ==== Sys2Proof/Machine/Protocol.lean ====
section
/-! DEFINITION. The host's stream protocols as sequences of commands (43_cbc_mode.md R187, R199), each command issued with
DIN loaded and completed before the next (70_reset_and_hazards.md R265; log 21). `fill` is what DIN holds beyond the bytes
pulled, which the spec leaves open: it is a parameter. -/

namespace Sys2Proof.Machine

/-- The block whose first bytes are `bs` and whose other bytes are those of `fill`. -/
def blockOf (fill : Block) (bs : List Byte) : Block := ofBytes 128 16 fun i => bs.getD i (byte fill i)

/-- Pull up to 16 bytes at a time, with at most `fuel` pulls (43_cbc_mode.md R187). -/
def pullsFuel : Nat → List Byte → List (List Byte)
  | 0, _ => []
  | fuel + 1, bs => if bs.isEmpty then [] else bs.take 16 :: pullsFuel fuel (bs.drop 16)

/-- The pulls from a byte source: 16 bytes each, the last one 1 to 16; none from an empty source (43_cbc_mode.md R187). -/
def pulls (bs : List Byte) : List (List Byte) := pullsFuel bs.length bs

/-- A command with the block the host loads into DIN before it, if any. -/
abbrev HostCommand := Instr × Option Block

/-- `LOADBLK` of a block, or nothing (30_encoding.md R89). -/
def loadDin (b : Option Block) (s : State) : State :=
  match b with
  | some b => { s with din0 := w0 b, din1 := w1 b }
  | none => s

/-- Step 2 of the encrypt protocol, for the pulled pieces of the plaintext (43_cbc_mode.md R187). -/
def encryptPulls (fill : Block) : List (List Byte) → List HostCommand
  | [] => [(.encData 0 true, some fill)]
  | [c] => [(.encData c.length true, some (blockOf fill c))]
  | c :: cs => (.encData 16 false, some (blockOf fill c)) :: encryptPulls fill cs

/-- The host's encrypt protocol for a plaintext (43_cbc_mode.md R187). -/
def encryptCommands (fill : Block) (plain : List Byte) : List HostCommand :=
  (.encStart, none) :: encryptPulls fill (pulls plain)

/-- Step 2 of the decrypt protocol, for the pulled pieces of the ciphertext after the IV (43_cbc_mode.md R199). R199 speaks
of 16-byte pieces only. What the host issues for a trailing piece of n = 1..15 bytes is the model's choice (log 22): one
`DEC_DATA n, LAST`, which raises BAD_LENGTH. -/
def decryptPulls (fill : Block) : List (List Byte) → List HostCommand
  | [] => []
  | [c] => [(.decData c.length true, some (blockOf fill c))]
  | c :: cs => (.decData c.length false, some (blockOf fill c)) :: decryptPulls fill cs

/-- The host's decrypt protocol for a wire: fewer than 16 IV bytes are `DEC_START n` without LAST and nothing more, 16
are `DEC_START 16` with LAST if the source is then empty (43_cbc_mode.md R199). -/
def decryptCommands (fill : Block) (wire : List Byte) : List HostCommand :=
  match pulls wire with
  | [] => [(.decStart 0 false, some fill)]
  | c :: cs =>
    if c.length < 16 then [(.decStart c.length false, some (blockOf fill c))]
    else (.decStart 16 cs.isEmpty, some (blockOf fill c)) :: decryptPulls fill cs

/-- The states after each command of a sequence, or none if a command stops the machine. -/
def runCommands : List HostCommand → State → Option (List State)
  | [], _ => some []
  | (i, b) :: cs, s =>
    match exec i (loadDin b s) with
    | .next t => (runCommands cs t).map (t :: ·)
    | .fault _ => none
    | .refused _ => none

/-- After each command the host emits the first OLEN bytes of DOUT (43_cbc_mode.md R187, R199). -/
def emitted (trace : List State) : List Byte := trace.flatMap State.output

end Sys2Proof.Machine
end

