-- ==== Sys2Proof/Safety.lean ====
section
/-! DEFINITION. The terms in which claims speak: legal states, the error a command must report, the stream table, the
bits a command may set, and the end of a run. -/

namespace Sys2Proof.Machine

/-- The bits of a command word outside OP that an opcode uses: INV is bit 4, LEN 9:5, LAST bit 10, NR 15:11
(30_encoding.md R81, "fields used" of R83). -/
def usesBit (op : Opcode) (k : Nat) : Bool :=
  match op with
  | .ksched => false
  | .feistel => k == 4 || (11 ≤ k && k ≤ 15)
  | .cipher => k == 4
  | .round => false
  | .encStart => false
  | .encData => 5 ≤ k && k ≤ 10
  | .decStart => 5 ≤ k && k ≤ 10
  | .decData => 5 ≤ k && k ≤ 10
  | .abortSrc => false
  | .abortSnk => false
  | .clear => false

/-- The error a well-formed command reports in a stream state other than ERROR, the first one in the order of
60_exceptions.md R240, steps 3 to 6; none for a command that succeeds (60_exceptions.md R230). -/
def errorOf (i : Instr) (f : Fsm) : Option Err :=
  match i with
  | .ksched => none
  | .feistel _ nr => if 17 ≤ nr then some .badRounds else none
  | .cipher _ => none
  | .round => none
  | .encStart => if f = .idle ∨ f = .done then none else some .badState
  | .encData len last =>
    if f ≠ .enc then some .badState
    else if 17 ≤ len then some .badLength
    else if len < 16 ∧ last = false then some .badLength
    else none
  | .decStart len _ =>
    if ¬(f = .idle ∨ f = .done) then some .badState
    else if 17 ≤ len then some .badLength
    else if len ≤ 15 then some .unexpectedEnd
    else none
  | .decData len last =>
    if f ≠ .dec then some .badState
    else if 17 ≤ len then some .badLength
    else if 1 ≤ len ∧ len ≤ 15 then some .badLength
    else if len = 0 ∧ last = false then some .badLength
    else none
  | .abortSrc => some .sourceFault
  | .abortSnk => some .sinkFault
  | .clear => none

/-- The stream state after a command that reports no error, outside ERROR (43_cbc_mode.md R170). -/
def fsmAfter (i : Instr) (f : Fsm) : Fsm :=
  match i with
  | .ksched => f
  | .feistel _ _ => f
  | .cipher _ => f
  | .round => f
  | .encStart => .enc
  | .encData _ last => if last then .done else .enc
  | .decStart _ last => if last then .done else .dec
  | .decData _ last => if last then .done else .dec
  | .abortSrc => .error
  | .abortSnk => .error
  | .clear => .idle

/-- The recorded word is one that can have raised the recorded code (60_exceptions.md R230, 10_state.md R31). -/
def errorExplained (x : Err) (v : Word) : Bool :=
  match x, decode v with
  | .noError, _ => v == 0
  | .sourceFault, .ok .abortSrc => true
  | .sinkFault, .ok .abortSnk => true
  | .unexpectedEnd, .ok (.decStart len _) => len < 16
  | .illegalCmd, .error _ => true
  | .badState, .ok .encStart => true
  | .badState, .ok (.encData _ _) => true
  | .badState, .ok (.decStart _ _) => true
  | .badState, .ok (.decData _ _) => true
  | .badLength, .ok (.encData len last) => 16 < len || (len < 16 && !last)
  | .badLength, .ok (.decStart len _) => 16 < len
  | .badLength, .ok (.decData len last) => 16 < len || (1 ≤ len && len ≤ 15) || (len == 0 && !last)
  | .badRounds, .ok (.feistel _ nr) => 16 < nr
  | _, _ => false

/-- The legal states: what every run from reset keeps. -/
structure State.Inv (s : State) : Prop where
  /-- `ERR != 0` if and only if `FSM = ERROR` (10_state.md R28). -/
  errIffError : s.err ≠ .noError ↔ s.fsm = .error
  /-- ERRCMD is 0 without an error, and a word that raises the recorded error with one (10_state.md R31). -/
  errcmdExplained : errorExplained s.err s.errcmd = true
  /-- In IDLE the chaining vector is 0: only CLEAR and reset lead there (60_exceptions.md R239, 44_control.md R215). -/
  idleChain : s.fsm = .idle → s.cv0 = 0 ∧ s.cv1 = 0
  /-- OLEN is at most 16, or 32 for two blocks (10_state.md R29, R34). -/
  olenLegal : s.olen.val ≤ 16 ∨ s.olen.val = 32
  /-- Outside ERROR, output block 1 is 0 unless it holds output (10_state.md R34). -/
  spareOutput : s.fsm ≠ .error → s.olen.val ≤ 16 → s.dout2 = 0 ∧ s.dout3 = 0
  /-- The window of a command is open only while it is pending (log 3). -/
  waitPending : s.pending = none → s.wait = 0
  /-- While reset is asserted every piece of state has its reset value (70_reset_and_hazards.md R260). -/
  resetHeld : s.inReset = true → s = holdReset s

/-- An action that is a port access or a POLL: no reset, and nothing the port refuses. -/
def plainAction : HostAction → Bool
  | .access _ => true
  | .poll => true
  | .bus _ => false
  | .resetAssert => false
  | .resetRelease => false

/-- The end of a run: the host has issued its last access and no command is pending (70_reset_and_hazards.md R272). The
rule does not speak of reset events; what they do to the end of a run is the model's choice (log 24): one still to come
keeps the run from having ended, and a run may end with reset asserted. -/
def runEnded (s : State) : Prop := s.todo = [] ∧ s.pending = none

/-- No host write has broken the BUSY hazard since the last CLEAR or reset. 70_reset_and_hazards.md R266 lets a model treat
a program that sets WIB as having broken the hazard of R265; that WIB = 0 counts as kept is the model's choice (log 23):
reads of result registers while BUSY, and reliance on STATUS fields then, also break R265 and are not counted. -/
def hazardKept (s : State) : Prop := s.wib = false

/-- The pad policy and the length of a plaintext let decryption recover it whole (43_cbc_mode.md R200): the full-pad
policy, a length that is no multiple of 16, the empty plaintext, or a last block that StripLen leaves whole. -/
def recoverable (apad : Bool) (plain : List Byte) : Prop :=
  apad = true ∨ plain.length % 16 ≠ 0 ∨ plain = [] ∨
    stripLen (blockOf 0 (plain.drop (plain.length - 16))) = 0

end Sys2Proof.Machine
end

