-- ==== Sys2Proof/Certificates/Slice0/Obligations.lean ====
section
/-! DEFINITION. The statements about the model, each from a rule of spec/. A state equation `t = { s with … }` is the
frame: every field it does not name, the model's own included, is unchanged. -/

open Sys2Proof Sys2Proof.Machine

/-! ### The command word -/

/-- 30_encoding.md R87: `Encode` is `op | inv<<4 | len<<5 | last<<10 | nr<<11`, and well-formed commands have distinct words. -/
def Obligations.EncodeFollowsFieldLayout : Prop :=
  (∀ (op : Opcode) (inv last : Bool) (len nr : Nat), len < 32 → nr < 32 →
    encodeFields op inv len last nr =
      op.code.setWidth 64 ||| ((BitVec.ofBool inv).setWidth 64 <<< 4) ||| (BitVec.ofNat 64 len <<< 5) |||
        ((BitVec.ofBool last).setWidth 64 <<< 10) ||| (BitVec.ofNat 64 nr <<< 11)) ∧
  ∀ i j : Instr, i.wellFormed = true → j.wellFormed = true → encode i = encode j → i = j

/-- Decoding the word of any well-formed command gives it back, with every operand (30_encoding.md R82, R87). -/
def Obligations.DecodeEncodeRoundTrip : Prop :=
  ∀ i : Instr, i.wellFormed = true → decode (encode i) = .ok i

/-- A word the decoder accepts is the one encoding of the command it stands for: no bit is dropped (30_encoding.md R84, R87). -/
def Obligations.AcceptedWordIsItsEncoding : Prop :=
  ∀ (v : Word) (i : Instr), decode v = .ok i → i.wellFormed = true ∧ encode i = v

/-- 30_encoding.md R84: a word is accepted exactly when its OP is assigned and every bit outside OP and the fields of the
opcode is 0, and that is the mask and match test. -/
def Obligations.WordAcceptedExactlyWhenWellFormed : Prop :=
  ∀ v : Word,
    ((∃ i, decode v = .ok i) ↔
      ∃ op : Opcode, op.code = v.extractLsb' 0 4 ∧ ∀ k, k < 64 → v.getLsbD k = true → k < 4 ∨ usesBit op k = true) ∧
    ((∃ i, decode v = .ok i) ↔ ∃ op : Opcode, op.code = v.extractLsb' 0 4 ∧ v &&& op.mask = op.pattern) ∧
    (decode v = .ok .ksched ↔ v = 0x0000000000000001)

/-- 30_encoding.md R86: a word with a reserved opcode, or with a bit its opcode does not use, is illegal; an
illegal word raises ILLEGAL_CMD outside ERROR and is ignored in ERROR; the zero word is illegal. -/
def Obligations.IllegalWordsAreReported : Prop :=
  (∀ v : Word, v.extractLsb' 0 4 ∈ ([0x0, 0x5, 0x6, 0x7, 0xE] : List (BitVec 4)) → ∃ e, decode v = .error e) ∧
  (∀ (v : Word) (op : Opcode) (k : Nat), op.code = v.extractLsb' 0 4 → 4 ≤ k → usesBit op k = false →
    v.getLsbD k = true → ∃ e, decode v = .error e) ∧
  (∀ (v : Word) (e : DecodeError) (s : State), decode v = .error e → s.fsm ≠ .error →
    engineStep v s = .next { s with
      fsm := .error, err := .illegalCmd, errcmd := v, olen := 0, pending := none, wait := 0 }) ∧
  (∀ (v : Word) (e : DecodeError) (s : State), decode v = .error e → s.fsm = .error →
    engineStep v s = .next { s with pending := none, wait := 0 }) ∧
  ∃ e, decode 0x0000000000000000 = .error e

/-- 30_encoding.md R88, R90: the words and encodings the spec lists, both ways; what `Encode` is given for each command,
with the opcodes of R83; and the forms WR, RD and CMD of a host program. A check of concrete words. -/
def Obligations.SpecWordsDecode : Prop :=
  (∀ p ∈ ([(.feistel false 0, 0x0002), (.feistel false 1, 0x0802), (.feistel false 2, 0x1002),
      (.feistel false 16, 0x8002), (.feistel true 16, 0x8012), (.feistel false 17, 0x8802),
      (.encData 16 false, 0x0209), (.encData 16 true, 0x0609), (.encData 5 true, 0x04A9), (.encData 0 true, 0x0409),
      (.decStart 16 false, 0x020A), (.decStart 16 true, 0x060A), (.decStart 0 false, 0x000A),
      (.decData 16 false, 0x020B), (.decData 16 true, 0x060B), (.decData 0 true, 0x040B)] : List (Instr × Word)),
    encode p.1 = p.2 ∧ decode p.2 = .ok p.1) ∧
  (∀ p ∈ ([(.ksched, 0x0001), (.cipher false, 0x0003), (.cipher true, 0x0013), (.round, 0x0004), (.encStart, 0x0008),
      (.abortSrc, 0x000C), (.abortSnk, 0x000D), (.clear, 0x000F)] : List (Instr × Word)),
    encode p.1 = p.2 ∧ decode p.2 = .ok p.1) ∧
  (Opcode.ksched.code = 0x1 ∧ Opcode.feistel.code = 0x2 ∧ Opcode.cipher.code = 0x3 ∧ Opcode.round.code = 0x4 ∧
    Opcode.encStart.code = 0x8 ∧ Opcode.encData.code = 0x9 ∧ Opcode.decStart.code = 0xA ∧ Opcode.decData.code = 0xB ∧
    Opcode.abortSrc.code = 0xC ∧ Opcode.abortSnk.code = 0xD ∧ Opcode.clear.code = 0xF) ∧
  (∀ (inv : Bool) (nr : Nat), encode (.feistel inv nr) = encodeFields .feistel inv 0 false nr) ∧
  (∀ (len : Nat) (last : Bool), encode (.encData len last) = encodeFields .encData false len last 0 ∧
    encode (.decStart len last) = encodeFields .decStart false len last 0 ∧
    encode (.decData len last) = encodeFields .decData false len last 0) ∧
  ∀ (r : Reg) (v : Word) (i : Instr), wr r v = .access (.write r.index v) ∧ rd r = .access (.read r.index) ∧
    cmd i = wr .cmd (encode i)

/-! ### Steps -/

/-- When the engine moves, the step is the engine's step on the pending word (30_encoding.md R85): a word that decodes runs
as its command, and one that does not raises ILLEGAL_CMD, or is ignored in ERROR (R86); then BUSY falls. When the engine
moves, no action left or the window `wait` used up, is the model's choice (log 3). -/
def Obligations.StepRunsPendingCommand : Prop :=
  ∀ (s : State) (v : Word), s.inReset = false → s.pending = some v → (s.todo = [] ∨ s.wait = 0) →
    step s = engineStep v s ∧
    (∀ i, decode v = .ok i → ∃ t, exec i s = .next t ∧ step s = .next { t with pending := none, wait := 0 }) ∧
    (∀ e, decode v = .error e → s.fsm ≠ .error →
      step s = .next { s with
        fsm := .error, err := .illegalCmd, errcmd := v, olen := 0, pending := none, wait := 0 }) ∧
    ∀ e, decode v = .error e → s.fsm = .error → step s = .next { s with pending := none, wait := 0 }

/-- When the engine does not move, the outside world's next action is performed (20_memory.md R65); with none and nothing
pending the state is held (60_exceptions.md R248). One turn of a POLL reads STATUS, stays the next action while BUSY = 1
and ends when BUSY = 0 (30_encoding.md R89, 20_memory.md R66); like every read it changes no register. The window `wait`,
the draw a read uses up and the read log are the model's (logs 2, 3, 11). -/
def Obligations.StepPerformsNextAction : Prop :=
  (∀ (s : State) (a : HostAction) (rest : List HostAction), s.todo = a :: rest →
    (s.pending = none ∨ s.inReset = true ∨ s.wait ≠ 0) →
    step s = hostStep a { s with todo := rest, wait := s.wait - 1 }) ∧
  (∀ s : State, s.todo = [] → s.pending = none → step s = .next s) ∧
  ∀ s : State, s.inReset = false →
    ∃ t, hostStep .poll s = .next t ∧
      t = { s with todo := t.todo, reads := t.reads, draws := t.draws } ∧
      (t.reads = { idx := Reg.status.index, value := readValue s .status } :: s.reads ∧ t.draws = s.draws + 1) ∧
      (s.pending ≠ none → t.todo = .poll :: s.todo) ∧ (s.pending = none → t.todo = s.todo)

/-- 60_exceptions.md R238: in FSM = ERROR every word but CLEAR makes no change of state, except that BUSY falls. -/
def Obligations.ErrorStateIgnoresCommands : Prop :=
  ∀ (v : Word) (s : State), s.fsm = .error → v ≠ 0x000000000000000F →
    engineStep v s = .next { s with pending := none, wait := 0 }

/-- 60_exceptions.md R239: only CLEAR and reset leave FSM = ERROR, and both lead to IDLE. -/
def Obligations.OnlyClearAndResetLeaveError : Prop :=
  (∀ s t : State, step s = .next t → s.fsm = .error → t.fsm ≠ .error →
    t.fsm = .idle ∧
      ((s.pending = some 0x000000000000000F ∧ s.inReset = false ∧ t.pending = none) ∨
        s.inReset = true ∨ (t.inReset = true ∧ ∃ rest, s.todo = .resetAssert :: rest))) ∧
  (∀ s : State, ∃ t, engineStep 0x000000000000000F s = .next t ∧ t.fsm = .idle) ∧
  ∀ s : State, ∃ t, hostStep .resetAssert s = .next t ∧ t.fsm = .idle

/-- An accepted command completes: BUSY falls after at most as many steps as its window is wide, plus one
(70_reset_and_hazards.md R270). The window is the model's form of CMD_LATENCY (log 3). -/
def Obligations.PendingCommandCompletes : Prop :=
  ∀ (s : State) (v : Word), s.inReset = false → s.pending = some v → (∀ a ∈ s.todo, plainAction a = true) →
    ∃ (k : Nat) (t : State), k ≤ s.wait + 1 ∧ Sys2Proof.core.run k s = .next t ∧ t.pending = none

/-- Every host program of port accesses and POLLs runs to the end of 70_reset_and_hazards.md R272: no command hangs the
engine and no POLL waits for ever (R270), whatever the free values are. That the window of a command is finite is the
model's form of CMD_LATENCY and fairness (log 3). -/
def Obligations.HostProgramsReachTheirEnd : Prop :=
  ∀ s : State, s.inReset = false → (∀ a ∈ s.todo, plainAction a = true) →
    ∃ (k : Nat) (t : State), Sys2Proof.core.run k s = .next t ∧ runEnded t

/-- Until a pending command completes no step changes a register, WIB apart; so the engine reads its inputs as they
stood when the command was accepted (20_memory.md R65, 10_state.md R26). -/
def Obligations.RegistersHeldWhileBusy : Prop :=
  ∀ (s t : State) (v : Word), s.pending = some v → step s = .next t → t.pending = some v →
    t = { s with todo := t.todo, reads := t.reads, wait := t.wait, draws := t.draws, wib := t.wib }

/-! ### The port -/

/-- 70_reset_and_hazards.md R266: a host write while BUSY changes no register and sets WIB, which stays 1 until CLEAR completes
or reset. -/
def Obligations.WriteWhileBusyOnlySetsWib : Prop :=
  (∀ (s : State) (idx : BitVec 5) (v : Word), s.pending ≠ none → s.inReset = false →
    hostStep (.access (.write idx v)) s = .next { s with wib := true }) ∧
  ∀ s t : State, step s = .next t → s.wib = true → t.wib = false →
    (s.pending = some 0x000000000000000F ∧ s.inReset = false ∧ t.pending = none) ∨
      s.inReset = true ∨ (t.inReset = true ∧ ∃ rest, s.todo = .resetAssert :: rest)

/-- What a host read returns while BUSY (70_reset_and_hazards.md R267). The rule says only that the unspecified registers
read an unspecified value each time: that the value is one free word of the current draw is the model's choice (log 2),
and that the three STATUS fields are bits of that word is its inference (log 9). -/
def Obligations.ReadsWhileBusy : Prop :=
  ∀ s : State, s.pending ≠ none →
    ((readValue s .status).getLsbD 0 = true ∧ (readValue s .status).getLsbD 14 = s.wib) ∧
    (readValue s .ctrl = s.ctrlWord ∧ readValue s .key0 = s.key0 ∧ readValue s .key1 = s.key1 ∧
      readValue s .din0 = s.din0 ∧ readValue s .din1 = s.din1 ∧
      readValue s .eseed0 = s.eseed0 ∧ readValue s .eseed1 = s.eseed1) ∧
    (∃ free : Word, free = Config.busyRead s.draws ∧
      (readValue s .status).extractLsb' 1 3 = free.extractLsb' 1 3 ∧
      (readValue s .status).extractLsb' 4 4 = free.extractLsb' 4 4 ∧
      (readValue s .status).extractLsb' 8 6 = free.extractLsb' 8 6 ∧
      ∀ r : Reg, r ∈ ([.errcmd, .dout0, .dout1, .dout2, .dout3, .cv0, .cv1] : List Reg) ∨ (∃ i, r = .sk i) →
        readValue s r = free) ∧
    readValue s .cmd = 0

/-- A host read changes no register (20_memory.md R64) and hands the host the value (R61); every register stands at its
index of 10_state.md R21, every index is mapped, and each register reads the field that holds it. The read log, and
that a read uses up one draw, are the model's own (logs 2, 11); CTRL, CMD and STATUS have statements of their own. -/
def Obligations.ReadReturnsValueAndChangesNothing : Prop :=
  (∀ (s : State) (r : Reg), s.inReset = false →
    ∃ t, hostStep (.access (.read r.index)) s = .next t ∧
      t = { s with reads := t.reads, draws := t.draws } ∧
      t.reads = { idx := r.index, value := readValue s r } :: s.reads ∧ t.draws = s.draws + 1 ∧
      (s.pending = none → readValue s r = readReg s r)) ∧
  ((Reg.ctrl.index = 0 ∧ Reg.cmd.index = 1 ∧ Reg.status.index = 2 ∧ Reg.errcmd.index = 3) ∧
    (Reg.key0.index = 4 ∧ Reg.key1.index = 5 ∧ Reg.din0.index = 6 ∧ Reg.din1.index = 7) ∧
    (Reg.dout0.index = 8 ∧ Reg.dout1.index = 9 ∧ Reg.dout2.index = 10 ∧ Reg.dout3.index = 11) ∧
    (Reg.cv0.index = 12 ∧ Reg.cv1.index = 13 ∧ Reg.eseed0.index = 14 ∧ Reg.eseed1.index = 15) ∧
    ∀ i : Fin 16, (Reg.sk i).index.toNat = 16 + i.val) ∧
  (∀ idx : BitVec 5, ∃ r : Reg, r.index = idx ∧ Reg.ofIndex idx = r) ∧
  ∀ s : State,
    readReg s .errcmd = s.errcmd ∧ (readReg s .key0 = s.key0 ∧ readReg s .key1 = s.key1) ∧
    (readReg s .din0 = s.din0 ∧ readReg s .din1 = s.din1) ∧
    (readReg s .dout0 = s.dout0 ∧ readReg s .dout1 = s.dout1 ∧ readReg s .dout2 = s.dout2 ∧ readReg s .dout3 = s.dout3) ∧
    (readReg s .cv0 = s.cv0 ∧ readReg s .cv1 = s.cv1) ∧ (readReg s .eseed0 = s.eseed0 ∧ readReg s .eseed1 = s.eseed1) ∧
    ∀ i : Fin 16, readReg s (.sk i) = s.sk[i]

/-- A host write while BUSY = 0 stores the value in an RW register and leaves every other register as it was; a write to
an RO register is ignored (10_state.md R21, 20_memory.md R64). CTRL and CMD have statements of their own. -/
def Obligations.WriteWhenIdle : Prop :=
  ∀ (s : State) (r : Reg) (v : Word), s.pending = none → s.inReset = false →
    (r ∈ ([.status, .errcmd, .dout0, .dout1, .dout2, .dout3, .cv0, .cv1] : List Reg) →
      hostStep (.access (.write r.index v)) s = .next s) ∧
    (r ∈ ([.key0, .key1, .din0, .din1, .eseed0, .eseed1] : List Reg) ∨ (∃ i, r = .sk i) →
      ∃ t, hostStep (.access (.write r.index v)) s = .next t ∧ readReg t r = v ∧
        (∀ r', r' ≠ r → readReg t r' = readReg s r') ∧
        t = { s with
          key0 := t.key0, key1 := t.key1, din0 := t.din0, din1 := t.din1
          eseed0 := t.eseed0, eseed1 := t.eseed1, sk := t.sk })

/-- 10_state.md R23: a write of CTRL stores bits 2:0 in CSEL, APAD and ESRC and discards the rest, and a read returns
`zext_64(ESRC ++ APAD ++ CSEL)`. -/
def Obligations.CtrlKeepsThreeBits : Prop :=
  (∀ (s : State) (v : Word), s.pending = none → s.inReset = false →
    ∃ t, hostStep (.access (.write Reg.ctrl.index v)) s = .next t ∧
      t = { s with csel := v.getLsbD 0, apad := v.getLsbD 1, esrc := v.getLsbD 2 } ∧ readReg t .ctrl = v &&& 7) ∧
  ∀ s : State, readReg s .ctrl =
    (BitVec.ofBool s.esrc ++ BitVec.ofBool s.apad ++ BitVec.ofBool s.csel).setWidth 64

/-- A write of CMD while BUSY = 0 makes the word the pending command and sets BUSY; while BUSY it is ignored and sets
WIB; a read of CMD returns 0 (10_state.md R24). The window, a free number, and the draw it uses up are the model's (logs 2, 3). -/
def Obligations.CmdWriteStartsCommand : Prop :=
  (∀ (s : State) (v : Word), s.pending = none → s.inReset = false →
    ∃ t, hostStep (.access (.write Reg.cmd.index v)) s = .next t ∧
      t = { s with pending := some v, wait := Config.cmdWindow s.draws, draws := s.draws + 1 } ∧ t.busy = true) ∧
  (∀ (s : State) (v w : Word), s.pending = some w → s.inReset = false →
    hostStep (.access (.write Reg.cmd.index v)) s = .next { s with wib := true }) ∧
  ∀ s : State, readValue s .cmd = 0

/-- Accesses narrower than 64 bits and accesses at no multiple of 8 are refused (20_memory.md R63). That wider ones are
refused too is the model's inference from R61 (log 19), and that all of these are refused while reset is asserted, where
70_reset_and_hazards.md R260 says accesses are ignored, is the model's choice (log 19). -/
def Obligations.ForeignBusAccessesAreRefused : Prop :=
  ∀ (s : State) (addr size : Nat) (v : Word), (size ≠ 8 ∨ addr % 8 ≠ 0) →
    (∃ r, hostStep (.bus (.read addr size)) s = .refused r) ∧
    ∃ r, hostStep (.bus (.write addr size v)) s = .refused r

/-- On a byte bus the register at word index idx lies at byte offset 8·idx from KGP_BASE, a multiple of 256, and no
register lies outside the 256 bytes (20_memory.md R62, R70, 93_implementation_defined.md I6). That an access outside them is
refused while reset is asserted too is the model's choice (log 19). -/
def Obligations.BusAccessIsPortAccess : Prop :=
  Config.kgpBase % 256 = 0 ∧
  (∀ (s : State) (idx : BitVec 5) (v : Word),
    hostStep (.bus (.read (Config.kgpBase + 8 * idx.toNat) 8)) s = hostStep (.access (.read idx)) s ∧
    hostStep (.bus (.write (Config.kgpBase + 8 * idx.toNat) 8 v)) s = hostStep (.access (.write idx v)) s) ∧
  ∀ (s : State) (addr : Nat) (v : Word), addr % 8 = 0 →
    (addr < Config.kgpBase ∨ Config.kgpBase + 256 ≤ addr) →
    hostStep (.bus (.read addr 8)) s = .refused .accessOutsideWindow ∧
    hostStep (.bus (.write addr 8 v)) s = .refused .accessOutsideWindow

/-- While reset is asserted and when it is released every piece of state has its reset value, the pending command is
discarded, and accesses of the port are ignored (70_reset_and_hazards.md R260). That the actions to come, what has been
read and the draws survive, that an ignored read leaves no answer and that an ignored POLL ends are the model's choice
(log 10). -/
def Obligations.ResetInputRestoresState : Prop :=
  (∀ s : State, s.inReset = false →
    hostStep .resetAssert s =
      .next { State.reset with todo := s.todo, reads := s.reads, draws := s.draws, inReset := true }) ∧
  (∀ (s : State) (a : HostAction), s.inReset = true → a ≠ .resetRelease →
    (∀ b, a = .bus b → ∃ x, portAccessOf b = .ok x) →
    hostStep a s =
      .next { State.reset with todo := s.todo, reads := s.reads, draws := s.draws, inReset := true }) ∧
  ∀ s : State, s.inReset = true →
    hostStep .resetRelease s =
      .next { State.reset with todo := s.todo, reads := s.reads, draws := s.draws, inReset := false }

/-- 10_state.md R41: what reset leaves. -/
def Obligations.ResetLeavesEveryRegisterZero : Prop :=
  (∀ r : Reg, readReg State.reset r = 0) ∧
  State.reset.csel = false ∧ State.reset.apad = false ∧ State.reset.esrc = false ∧ State.reset.busy = false ∧
  State.reset.fsm = .idle ∧ State.reset.err = .noError ∧ State.reset.olen = 0 ∧ State.reset.wib = false ∧
  State.reset.pending = none

/-- STATUS holds BUSY, FSM, ERR, OLEN and WIB at their bits, with the codes of 10_state.md R27 and 60_exceptions.md R230,
and 0 above (10_state.md R25). -/
def Obligations.StatusFieldsAtTheirBits : Prop :=
  (∀ s : State,
    (readReg s .status).getLsbD 0 = s.pending.isSome ∧
    (readReg s .status).extractLsb' 1 3 = s.fsm.code ∧
    (readReg s .status).extractLsb' 4 4 = s.err.code ∧
    ((readReg s .status).extractLsb' 8 6).toNat = s.olen.val ∧
    (readReg s .status).getLsbD 14 = s.wib ∧
    ∀ k, 15 ≤ k → (readReg s .status).getLsbD k = false) ∧
  (Fsm.idle.code = 0 ∧ Fsm.enc.code = 1 ∧ Fsm.dec.code = 2 ∧ Fsm.done.code = 3 ∧ Fsm.error.code = 4) ∧
  (Err.noError.code = 0 ∧ Err.sourceFault.code = 1 ∧ Err.sinkFault.code = 2 ∧ Err.unexpectedEnd.code = 3 ∧
    Err.illegalCmd.code = 4 ∧ Err.badState.code = 5 ∧ Err.badLength.code = 6 ∧ Err.badRounds.code = 7)

/-- There are OLEN valid output bytes, and byte i lies in DOUT[i div 8] at bits 8(i mod 8)+7 : 8(i mod 8)
(10_state.md R29). -/
def Obligations.OutputBytesLieInDout : Prop :=
  ∀ s : State, s.output.length = s.olen.val ∧
    ∀ i, i < s.olen.val →
      s.output[i]? = some ((([s.dout0, s.dout1, s.dout2, s.dout3] : List Word).getD (i / 8) 0).extractLsb' (8 * (i % 8)) 8)

/-! ### Errors -/

/-- 60_exceptions.md R236, R237: a command word that enters the error state writes FSM, ERR, ERRCMD (the word itself) and
OLEN and has done nothing else; BUSY falls as for every command. -/
def Obligations.ErrorsArePrecise : Prop :=
  ∀ (v : Word) (s t : State), s.fsm ≠ .error → engineStep v s = .next t → t.fsm = .error →
    ∃ x : Err, x ≠ .noError ∧
      t = { s with fsm := .error, err := x, errcmd := v, olen := 0, pending := none, wait := 0 }

/-- 60_exceptions.md R240: the first error condition in its order is reported, and only it. `errorOf` is steps 3 to 6. -/
def Obligations.FirstErrorInPriorityOrder : Prop :=
  ∀ (v : Word) (s : State),
    (s.fsm = .error → v = 0x000000000000000F → ∃ t, engineStep v s = .next t ∧ t.fsm = .idle ∧ t.err = .noError) ∧
    (s.fsm = .error → v ≠ 0x000000000000000F → engineStep v s = .next { s with pending := none, wait := 0 }) ∧
    (∀ e, s.fsm ≠ .error → decode v = .error e → ∃ t, engineStep v s = .next t ∧
      t.err = .illegalCmd ∧ t.errcmd = v) ∧
    (∀ i x, s.fsm ≠ .error → decode v = .ok i → errorOf i s.fsm = some x →
      engineStep v s = .next { s with fsm := .error, err := x, errcmd := v, olen := 0, pending := none, wait := 0 }) ∧
    ∀ i, s.fsm ≠ .error → decode v = .ok i → errorOf i s.fsm = none →
      ∃ t, engineStep v s = .next t ∧ t.fsm ≠ .error ∧ (i ≠ .clear → t.err = s.err ∧ t.errcmd = s.errcmd)

/-- ABORT_SRC and ABORT_SNK record the host's fault with their own word (44_control.md R210, R212); in ERROR they are
ignored. -/
def Obligations.AbortRecordsHostFault : Prop :=
  ∀ s : State,
    (s.fsm ≠ .error → exec .abortSrc s =
      .next { s with fsm := .error, err := .sourceFault, errcmd := 0x000000000000000C, olen := 0 }) ∧
    (s.fsm ≠ .error → exec .abortSnk s =
      .next { s with fsm := .error, err := .sinkFault, errcmd := 0x000000000000000D, olen := 0 }) ∧
    (s.fsm = .error → exec .abortSrc s = .next s ∧ exec .abortSnk s = .next s)

/-- CLEAR executes in every state and returns to IDLE; CTRL, KEY, DIN, ESEED and SK are not written; it is idempotent
(44_control.md R215). -/
def Obligations.ClearReturnsToIdle : Prop :=
  ∀ s : State, ∃ t, exec .clear s = .next t ∧
    t = { s with
      fsm := .idle, err := .noError, errcmd := 0, olen := 0, wib := false
      cv0 := 0, cv1 := 0, dout0 := 0, dout1 := 0, dout2 := 0, dout3 := 0 } ∧
    exec .clear t = .next t

/-! ### Whole-machine rules -/

/-- The state after reset is a legal one. -/
def Obligations.ResetStateIsLegal : Prop := State.reset.Inv

/-- Every step keeps the legal states (10_state.md R28, R29, R31, R34; 60_exceptions.md R239): ERR names an error exactly
in FSM = ERROR, ERRCMD is a word that raises the recorded error, IDLE has no chaining vector, block 1 of the output is 0
unless it holds output, reset holds everything. The clause on the window `wait` rests on the model's choice (log 3). -/
def Obligations.StepKeepsLegalStates : Prop :=
  ∀ s t : State, s.Inv → step s = .next t → t.Inv

/-- No command writes CTRL, KEY, DIN or ESEED (10_state.md R32, R33, R36), nor anything of the outside world's. -/
def Obligations.EngineNeverWritesHostRegisters : Prop :=
  ∀ (i : Instr) (s t : State), exec i s = .next t →
    t.csel = s.csel ∧ t.apad = s.apad ∧ t.esrc = s.esrc ∧ t.key0 = s.key0 ∧ t.key1 = s.key1 ∧
    t.din0 = s.din0 ∧ t.din1 = s.din1 ∧ t.eseed0 = s.eseed0 ∧ t.eseed1 = s.eseed1 ∧
    t.todo = s.todo ∧ t.reads = s.reads ∧ t.inReset = s.inReset ∧ t.pending = s.pending ∧ t.wait = s.wait ∧
    (i ≠ .clear → t.wib = s.wib)

/-- 43_cbc_mode.md R170: the stream state after every command in every state. `errorOf` says when an error entry replaces
a success; ERROR ignores every command but CLEAR. -/
def Obligations.StreamStateFollowsTable : Prop :=
  ∀ (i : Instr) (s : State), ∃ t, exec i s = .next t ∧
    (s.fsm = .error → i ≠ .clear → t = s) ∧
    (∀ x, s.fsm ≠ .error → errorOf i s.fsm = some x →
      t = { s with fsm := .error, err := x, errcmd := encode i, olen := 0 }) ∧
    (s.fsm ≠ .error → errorOf i s.fsm = none → t.fsm = fsmAfter i s.fsm) ∧
    (i = .clear → t.fsm = .idle)

/-- 43_cbc_mode.md R172: CV is the enciphered IV (after DEC_START the block in DIN, which is the wire's first), and then the
block enciphered and produced last when encrypting, or the block consumed last when decrypting; the boundary ends,
KSCHED, FEISTEL, CIPHER, ROUND and every error entry leave it as it is. CLEAR, which sets it to 0 and ends the stream
(10_state.md R35, 44_control.md R215), is excepted. -/
def Obligations.ChainVectorIsCiphertext : Prop :=
  (∀ s t : State, exec .encStart s = .next t → t.fsm = .enc → s.fsm ≠ .enc →
    t.chainBlock = t.outBlock0 ∧
      t.chainBlock = s.crypt Config.tables (blk (entropyWords s).1 (entropyWords s).2) false) ∧
  (∀ (s t : State) (n : Nat) (last : Bool), s.fsm = .enc → exec (.encData n last) s = .next t → t.fsm ≠ .error →
    ∃ p : Block, p = (if n = 16 then s.inputBlock else pad s.inputBlock n) ∧
      ((t.olen.val = 16 ∧ t.chainBlock = t.outBlock0 ∧
          t.outBlock0 = s.crypt Config.tables (p ^^^ s.chainBlock) false) ∨
        (t.olen.val = 32 ∧ n = 16 ∧ last = true ∧ s.apad = true ∧
          t.outBlock0 = s.crypt Config.tables (p ^^^ s.chainBlock) false ∧ t.chainBlock = t.outBlock1 ∧
          t.outBlock1 = s.crypt Config.tables (pad s.inputBlock 0 ^^^ t.outBlock0) false) ∨
        (t.olen.val = 0 ∧ n = 0 ∧ s.apad = false ∧ t.chainBlock = s.chainBlock))) ∧
  (∀ (s t : State) (n : Nat) (last : Bool), s.fsm ≠ .error → exec (.decStart n last) s = .next t → t.fsm ≠ .error →
    t.chainBlock = s.inputBlock) ∧
  (∀ (s t : State) (n : Nat) (last : Bool), s.fsm = .dec → exec (.decData n last) s = .next t → t.fsm ≠ .error →
    t.chainBlock = if n = 0 then s.chainBlock else s.inputBlock) ∧
  ∀ (i : Instr) (s t : State), exec i s = .next t →
    (i = .ksched ∨ (∃ inv nr, i = .feistel inv nr) ∨ (∃ inv, i = .cipher inv) ∨ i = .round ∨ t.fsm = .error) →
    t.chainBlock = s.chainBlock

/-- Whatever a command does to the subkey file is to write the whole schedule of the key, and every command that
enciphers or deciphers a block does so (42_cipher_adapter.md R151, 10_state.md R37). -/
def Obligations.SubkeysAreHeldOrScheduled : Prop :=
  (∀ (i : Instr) (s t : State), exec i s = .next t → t.sk = s.sk ∨ t.sk = schedule s.csel s.key0 s.key1) ∧
  ∀ (i : Instr) (s t : State), exec i s = .next t → s.fsm ≠ .error → t.fsm ≠ .error →
    (i = .ksched ∨ (∃ inv, i = .cipher inv) ∨ i = .encStart ∨
      (∃ n last, i = .encData n last ∧ (n ≠ 0 ∨ s.apad = true)) ∨ ∃ n last, i = .decData n last ∧ n ≠ 0) →
    t.sk = schedule s.csel s.key0 s.key1

/-! ### Key schedules and round functions -/

/-- 41_round_functions.md R122 through KSCHED under CSEL = 0: `sk[i] = k[i mod 2] XOR rotl_64(k[i mod 2], i)`, and the
frame of KSCHED. -/
def Obligations.KschedWritesLapplandSchedule : Prop :=
  ∀ s : State, s.fsm ≠ .error → s.csel = false →
    ∃ t, exec .ksched s = .next t ∧
      t = { s with sk := t.sk, dout0 := 0, dout1 := 0, dout2 := 0, dout3 := 0, olen := 0 } ∧
      ∀ i : Fin 16, t.sk[i] =
        (if i.val % 2 = 0 then s.key0 else s.key1) ^^^ rotl (if i.val % 2 = 0 then s.key0 else s.key1) i.val

/-- 41_round_functions.md R126 through KSCHED under CSEL = 1:
`sk[i] = rotl_64(k[i mod 2], i) XOR rotr_64(k[1 - (i mod 2)], i)`, and the frame of KSCHED. -/
def Obligations.KschedWritesMisakaSchedule : Prop :=
  ∀ s : State, s.fsm ≠ .error → s.csel = true →
    ∃ t, exec .ksched s = .next t ∧
      t = { s with sk := t.sk, dout0 := 0, dout1 := 0, dout2 := 0, dout3 := 0, olen := 0 } ∧
      ∀ i : Fin 16, t.sk[i] =
        rotl (if i.val % 2 = 0 then s.key0 else s.key1) i.val ^^^ rotr (if i.val % 2 = 0 then s.key1 else s.key0) i.val

/-- 41_round_functions.md R123: the corners of LapSchedule. -/
def Obligations.LapplandScheduleCorners : Prop :=
  (∀ k0 k1 : Word, (lapSchedule k0 k1)[0] = 0) ∧
  (∀ (k0 k1 : Word) (i : Fin 16), i.val % 2 = 0 → k0 = 0 ∨ k0 = BitVec.allOnes 64 → (lapSchedule k0 k1)[i] = 0) ∧
  (∀ (k0 k1 : Word) (i : Fin 16), i.val % 2 = 1 → k1 = 0 ∨ k1 = BitVec.allOnes 64 → (lapSchedule k0 k1)[i] = 0) ∧
  ∀ (T : Tables) (k0 k1 : Word) (b : Block), (∀ i : Fin 16, (lapSchedule k0 k1)[i] = 0) →
    adapter T false k0 k1 b true = adapter T false k0 k1 b false

/-- 41_round_functions.md R127: the corners of MisSchedule. -/
def Obligations.MisakaScheduleCorners : Prop :=
  (∀ k0 k1 : Word, (misSchedule k0 k1)[0] = k0 ^^^ k1) ∧
  (∀ (k : Word) (i : Fin 16), k = 0 ∨ k = BitVec.allOnes 64 → (misSchedule k k)[i] = 0) ∧
  ∀ (x : Word) (i : Fin 16), (misSchedule x x)[i] = rotl x i.val ^^^ rotr x i.val

/-- 41_round_functions.md R120, R121: LapRound byte by byte (substitute, rotate the byte by `(acc + j) mod 7`, OR, and
shift by 8 except after byte 7) and its last step `(acc XOR rotr_64(acc, acc mod 63)) XOR sk`; its corners: the sum
`acc + j` never wraps, the byte amount is 0..6 and 0 for byte 0, the accumulation reverses the byte order, the word amount
is 0..62, and when it is 0 LapRound returns the subkey. -/
def Obligations.LapplandRoundCorners : Prop :=
  (∀ (sbox : Byte → Byte) (half : Word),
    (lapLoop sbox half 0 = 0 ∧
      (∀ j, j < 8 → ∃ acc : Word, acc = lapLoop sbox half j |||
          (rotl (sbox (byte half j)) ((lapLoop sbox half j + BitVec.ofNat 64 j).toNat % 7)).setWidth 64 ∧
        lapLoop sbox half (j + 1) = if j < 7 then acc <<< 8 else acc) ∧
      ∀ sk acc : Word, acc = lapLoop sbox half 8 →
        lapRound sbox half sk = (acc ^^^ rotr acc (acc.toNat % 63)) ^^^ sk) ∧
    (∀ j, j < 8 → (lapLoop sbox half j).toNat + j < 2 ^ 64) ∧
    (∀ j, 1 ≤ j → j < 8 → byte (lapLoop sbox half j) 0 = 0) ∧
    (∀ j, j < 8 → lapAmount (lapLoop sbox half j) j ≤ 6) ∧
    lapAmount (lapLoop sbox half 0) 0 = 0 ∧
    (∀ x : Byte, rotl x 0 = x) ∧
    (∀ j, j < 8 →
      byte (lapLoop sbox half 8) (7 - j) = rotl (sbox (byte half j)) (lapAmount (lapLoop sbox half j) j)) ∧
    (lapLoop sbox half 8).toNat % 63 ≤ 62 ∧
    ∀ sk : Word, (lapLoop sbox half 8).toNat % 63 = 0 → lapRound sbox half sk = sk) ∧
  ∀ sk : Word, lapRound id 0 sk = sk

/-- 41_round_functions.md R124: MisRound is `(h + (rotl_64(h, 7) XOR rotr_64(h, 3))) XOR sk` for the word h whose bytes are
the substituted bytes. -/
def Obligations.MisakaRoundFormula : Prop :=
  ∀ (sbox : Byte → Byte) (half sk h : Word), (∀ j, j < 8 → byte h j = sbox (byte half j)) →
    misRound sbox half sk = (h + (rotl h 7 ^^^ rotr h 3)) ^^^ sk

/-- ROUND applies the selected round function to DIN0 with subkey DIN1: DOUT0, the other output words 0, OLEN = 8
(41_round_functions.md R128). The rotations of the round functions and schedules (00_scope.md R8, from general knowledge:
log 18): rotl_N by s moves bit k to bit (k + s) mod N, and rotr_N moves it back, for every width and amount. -/
def Obligations.RoundAppliesSelectedFunction : Prop :=
  (∀ (n : Nat) (x : BitVec n) (s k : Nat), k < n →
    (rotl x s).getLsbD ((k + s) % n) = x.getLsbD k ∧ (rotr x s).getLsbD k = x.getLsbD ((k + s) % n)) ∧
  ∀ s : State, s.fsm ≠ .error →
    (s.csel = false → exec .round s = .next { s with
      dout0 := lapRound Config.sboxL s.din0 s.din1, dout1 := 0, dout2 := 0, dout3 := 0, olen := 8 }) ∧
    (s.csel = true → exec .round s = .next { s with
      dout0 := misRound Config.sboxM s.din0 s.din1, dout1 := 0, dout2 := 0, dout3 := 0, olen := 8 })

/-! ### The Feistel engine -/

/-- 40_feistel.md R100: round i uses subkey i, or n-1-i with inv; new_L = R and new_R = F(R, k) XOR L; the halves are
exchanged once more after the loop. For every half width. -/
def Obligations.FeistelLoopUsesIndexedSubkeys : Prop :=
  ∀ (w n : Nat) (F : BitVec w → BitVec w → BitVec w) (k : Nat → BitVec w) (l r : BitVec w) (inv : Bool),
    feistel F ((List.range n).map k) l r inv =
      (let lr := (List.range n).foldl
        (fun (lr : BitVec w × BitVec w) i => (lr.2, F lr.2 (k (if inv then n - 1 - i else i)) ^^^ lr.1)) (l, r)
      (lr.2, lr.1))

/-- 40_feistel.md R104: the network is invertible in both directions for every round function. -/
def Obligations.FeistelInvertible : Prop :=
  ∀ (w : Nat) (F : BitVec w → BitVec w → BitVec w) (ks : List (BitVec w)) (l r : BitVec w) (inv : Bool),
    feistel F ks (feistel F ks l r inv).1 (feistel F ks l r inv).2 (!inv) = (l, r)

/-- FEISTEL with NR in 0..16 outside ERROR: the network over SK[0..NR-1] on DIN, and its frame; NR = 0 exchanges the
halves (40_feistel.md R105, R106). -/
def Obligations.FeistelCommandResult : Prop :=
  (∀ (s : State) (inv : Bool) (nr : Nat), s.fsm ≠ .error → nr ≤ 16 →
    ∃ lr : Word × Word,
      lr = feistel (if s.csel then misRound Config.sboxM else lapRound Config.sboxL)
        (s.sk.toList.take nr) s.din0 s.din1 inv ∧
      exec (.feistel inv nr) s =
        .next { s with dout0 := lr.1, dout1 := lr.2, dout2 := 0, dout3 := 0, olen := 16 }) ∧
  ∀ (s : State) (inv : Bool), s.fsm ≠ .error →
    exec (.feistel inv 0) s =
      .next { s with dout0 := s.din1, dout1 := s.din0, dout2 := 0, dout3 := 0, olen := 16 }

/-- FEISTEL in one direction and then, on its output, in the other restores the input (40_feistel.md R104, R105). -/
def Obligations.FeistelCommandRoundTrip : Prop :=
  ∀ (s : State) (inv : Bool) (nr : Nat), s.fsm ≠ .error → nr ≤ 16 →
    ∃ t u, exec (.feistel inv nr) s = .next t ∧
      exec (.feistel (!inv) nr) { t with din0 := t.dout0, din1 := t.dout1 } = .next u ∧
      u.dout0 = s.din0 ∧ u.dout1 = s.din1

/-- FEISTEL reads no subkey at index NR or above: other values there change nothing else (40_feistel.md R105). -/
def Obligations.FeistelIgnoresUnusedSubkeys : Prop :=
  ∀ (s t : State) (ks : Vector Word 16) (inv : Bool) (nr : Nat),
    (∀ i : Fin 16, i.val < nr → ks[i] = s.sk[i]) → exec (.feistel inv nr) s = .next t →
    exec (.feistel inv nr) { s with sk := ks } = .next { t with sk := ks }

/-! ### The cipher adapter -/

/-- CIPHER outside ERROR: LAPPLAND is 16 rounds over the schedule; MISAKA is the same between two whitenings with the raw
key; SK holds the schedule after it (42_cipher_adapter.md R150, R152, R155). -/
def Obligations.CipherCommandResult : Prop :=
  (∀ (s : State) (inv : Bool), s.fsm ≠ .error → s.csel = false →
    ∃ lr : Word × Word,
      lr = feistel (lapRound Config.sboxL) (lapSchedule s.key0 s.key1).toList s.din0 s.din1 inv ∧
      exec (.cipher inv) s = .next { s with
        dout0 := lr.1, dout1 := lr.2, dout2 := 0, dout3 := 0, olen := 16, sk := lapSchedule s.key0 s.key1 }) ∧
  ∀ (s : State) (inv : Bool), s.fsm ≠ .error → s.csel = true →
    ∃ lr : Word × Word,
      lr = feistel (misRound Config.sboxM) (misSchedule s.key0 s.key1).toList
        (s.din0 ^^^ s.key0) (s.din1 ^^^ s.key1) inv ∧
      exec (.cipher inv) s = .next { s with
        dout0 := lr.1 ^^^ s.key0, dout1 := lr.2 ^^^ s.key1, dout2 := 0, dout3 := 0, olen := 16
        sk := misSchedule s.key0 s.key1 }

/-- 42_cipher_adapter.md R153: `D(E(B)) = B` and `E(D(B)) = B` for both ciphers, every key, every block and every pair of
tables. -/
def Obligations.AdapterInvertible : Prop :=
  ∀ (T : Tables) (csel : Bool) (k0 k1 : Word) (b : Block) (inv : Bool),
    adapter T csel k0 k1 (adapter T csel k0 k1 b inv) (!inv) = b

/-- Under CSEL = 0, KSCHED and then FEISTEL with NR = 16 leave the same state as CIPHER (42_cipher_adapter.md R150,
95_test_vectors.md §6). -/
def Obligations.LapplandCipherIsFeistelOverSchedule : Prop :=
  ∀ (s : State) (inv : Bool), s.fsm ≠ .error → s.csel = false →
    ∃ t u, exec .ksched s = .next t ∧ exec (.feistel inv 16) t = .next u ∧ exec (.cipher inv) s = .next u

/-! ### Streams -/

/-- ENC_START in IDLE or DONE enciphers the IV, emits it and chains on it; the IV is ESEED1 ++ ESEED0 under ESRC = 1 and a
draw from the ports under ESRC = 0 (43_cbc_mode.md R180, R181). The draw's form is the model's choice (log 2). -/
def Obligations.EncStartOpensStream : Prop :=
  (∀ s : State, s.fsm = .idle ∨ s.fsm = .done → s.esrc = true →
    ∃ c : Block, c = s.crypt Config.tables (blk s.eseed0 s.eseed1) false ∧
      exec .encStart s = .next { s with
        fsm := .enc, olen := 16, cv0 := w0 c, cv1 := w1 c, dout0 := w0 c, dout1 := w1 c, dout2 := 0, dout3 := 0
        sk := schedule s.csel s.key0 s.key1 }) ∧
  ∀ s : State, s.fsm = .idle ∨ s.fsm = .done → s.esrc = false →
    ∃ c : Block, c = s.crypt Config.tables (blk (Config.entMono s.draws) (Config.entWall s.draws)) false ∧
      exec .encStart s = .next { s with
        fsm := .enc, olen := 16, cv0 := w0 c, cv1 := w1 c, dout0 := w0 c, dout1 := w1 c, dout2 := 0, dout3 := 0
        sk := schedule s.csel s.key0 s.key1, draws := s.draws + 1 }

/-- ENC_DATA in ENC: (a) a full block, (c) a full last block with the pad block, (b) a short last block, (d) the boundary
end under either policy (43_cbc_mode.md R186, R178). -/
def Obligations.EncDataCases : Prop :=
  (∀ (s : State) (last : Bool), s.fsm = .enc → (last && s.apad) = false →
    ∃ c : Block, c = s.crypt Config.tables (s.inputBlock ^^^ s.chainBlock) false ∧
      exec (.encData 16 last) s = .next { s with
        fsm := if last then .done else .enc, olen := 16, cv0 := w0 c, cv1 := w1 c
        dout0 := w0 c, dout1 := w1 c, dout2 := 0, dout3 := 0, sk := schedule s.csel s.key0 s.key1 }) ∧
  (∀ s : State, s.fsm = .enc → s.apad = true →
    ∃ c c' : Block, c = s.crypt Config.tables (s.inputBlock ^^^ s.chainBlock) false ∧
      c' = s.crypt Config.tables (pad s.inputBlock 0 ^^^ c) false ∧
      exec (.encData 16 true) s = .next { s with
        fsm := .done, olen := 32, cv0 := w0 c', cv1 := w1 c'
        dout0 := w0 c, dout1 := w1 c, dout2 := w0 c', dout3 := w1 c', sk := schedule s.csel s.key0 s.key1 }) ∧
  (∀ (s : State) (n : Nat), s.fsm = .enc → (1 ≤ n ∧ n ≤ 15) ∨ (n = 0 ∧ s.apad = true) →
    ∃ c : Block, c = s.crypt Config.tables (pad s.inputBlock n ^^^ s.chainBlock) false ∧
      exec (.encData n true) s = .next { s with
        fsm := .done, olen := 16, cv0 := w0 c, cv1 := w1 c
        dout0 := w0 c, dout1 := w1 c, dout2 := 0, dout3 := 0, sk := schedule s.csel s.key0 s.key1 }) ∧
  ∀ s : State, s.fsm = .enc → s.apad = false →
    exec (.encData 0 true) s = .next { s with
      fsm := .done, olen := 0, dout0 := 0, dout1 := 0, dout2 := 0, dout3 := 0 }

/-- DEC_START with a whole block in IDLE or DONE loads CV and emits nothing (43_cbc_mode.md R192). -/
def Obligations.DecStartLoadsChain : Prop :=
  ∀ (s : State) (last : Bool), s.fsm = .idle ∨ s.fsm = .done →
    exec (.decStart 16 last) s = .next { s with
      fsm := if last then .done else .dec, olen := 0, cv0 := s.din0, cv1 := s.din1
      dout0 := 0, dout1 := 0, dout2 := 0, dout3 := 0 }

/-- DEC_DATA in DEC: one block, with the pad stripped from OLEN on the last one only, or the boundary end
(43_cbc_mode.md R196, R198). -/
def Obligations.DecDataCases : Prop :=
  (∀ (s : State) (last : Bool), s.fsm = .dec →
    ∃ (p : Block) (t : State), p = s.crypt Config.tables s.inputBlock true ^^^ s.chainBlock ∧
      exec (.decData 16 last) s = .next t ∧
      t.olen.val = (if last then 16 - stripLen p else 16) ∧
      t = { s with
        fsm := if last then .done else .dec, olen := t.olen, cv0 := s.din0, cv1 := s.din1
        dout0 := w0 p, dout1 := w1 p, dout2 := 0, dout3 := 0, sk := schedule s.csel s.key0 s.key1 }) ∧
  ∀ s : State, s.fsm = .dec →
    exec (.decData 0 true) s = .next { s with
      fsm := .done, olen := 0, dout0 := 0, dout1 := 0, dout2 := 0, dout3 := 0 }

/-- 43_cbc_mode.md R176: Pad keeps the first n bytes and fills the rest with 16 - n; Pad(·, 0) is sixteen bytes of 0x10. -/
def Obligations.PadKeepsPrefixAndFills : Prop :=
  (∀ (p : Block) (n i : Nat), n ≤ 15 → i < 16 →
    byte (pad p n) i = if i < n then byte p i else BitVec.ofNat 8 (16 - n)) ∧
  ∀ p : Block, pad p 0 = 0x10101010101010101010101010101010

/-- 43_cbc_mode.md R177: StripLen is the last byte p when p is 1..16 and the last p bytes all equal p, and 0 otherwise. -/
def Obligations.StripLenFollowsTheCheck : Prop :=
  ∀ (b : Block) (p : Nat), p = (byte b 15).toNat →
    ((1 ≤ p ∧ p ≤ 16 ∧ ∀ i, 16 - p ≤ i → i ≤ 15 → (byte b i).toNat = p) → stripLen b = p) ∧
    (¬(1 ≤ p ∧ p ≤ 16 ∧ ∀ i, 16 - p ≤ i → i ≤ 15 → (byte b i).toNat = p) → stripLen b = 0)

/-- Stripping a padded block removes exactly the pad (43_cbc_mode.md R176, R177). -/
def Obligations.StripUndoesPad : Prop :=
  ∀ (p : Block) (n : Nat), n ≤ 15 → stripLen (pad p n) = 16 - n

/-- 43_cbc_mode.md R202: a change m of a ciphertext block C_i (R202's case: one bit of m is 1) makes recovered block i
`D(C_i XOR m) XOR C_{i-1}`, changes block i+1, if there is one, by exactly m, and changes no other block. The blocks are
those DOUT holds; what StripLen leaves of the last one may change. -/
def Obligations.CiphertextChangePropagates : Prop :=
  ∀ (fill : Block) (s : State) (before after : List Block) (c m : Block), s.fsm = .dec →
    ∃ (pre : List Block) (p p' : Block) (post : List Block),
      (runCommands (decryptPulls fill ((before ++ c :: after).map (bytesOf 16))) s).map (List.map State.outBlock0) =
        some (pre ++ p :: post) ∧
      (runCommands (decryptPulls fill ((before ++ (c ^^^ m) :: after).map (bytesOf 16))) s).map (List.map State.outBlock0) =
        some (pre ++ p' :: post.modifyHead (· ^^^ m)) ∧
      pre.length = before.length ∧ post.length = after.length ∧
      p = s.crypt Config.tables c true ^^^ before.getLastD s.chainBlock ∧
      p' = s.crypt Config.tables (c ^^^ m) true ^^^ before.getLastD s.chainBlock

/-- 43_cbc_mode.md R200: encrypting a plaintext of any length by the protocol of R187 and decrypting the emitted wire by
the protocol of R199, under the same CSEL and KEY, emits the plaintext: under APAD = 1 always, under APAD = 0 when the
length is 0 or no multiple of 16, or StripLen leaves the last block whole. `fill` is any content of the bytes of DIN
beyond those pulled, which the spec leaves open; the protocols as lists of commands are the model's form (log 21). -/
def Obligations.StreamRoundTripRecoversPlaintext : Prop :=
  ∀ (fill : Block) (s u : State) (plain : List Byte), s.fsm = .idle ∨ s.fsm = .done → u.fsm = .idle ∨ u.fsm = .done →
    u.csel = s.csel → u.key0 = s.key0 → u.key1 = s.key1 → recoverable s.apad plain →
    ∃ trace trace', runCommands (encryptCommands fill plain) s = some trace ∧
      runCommands (decryptCommands fill (emitted trace)) u = some trace' ∧ emitted trace' = plain

/-- 43_cbc_mode.md R201: under APAD = 0 an aligned plaintext whose last block Q has StripLen(Q) = p > 0 decrypts to itself
without its last p bytes. `fill` and the protocols: log 21. -/
def Obligations.ReferencePolicyLosesPadLikeTail : Prop :=
  ∀ (fill : Block) (s u : State) (plain : List Byte) (p : Nat), s.fsm = .idle ∨ s.fsm = .done → u.fsm = .idle ∨ u.fsm = .done →
    u.csel = s.csel → u.key0 = s.key0 → u.key1 = s.key1 → s.apad = false → plain ≠ [] → plain.length % 16 = 0 →
    p = stripLen (blockOf fill (plain.drop (plain.length - 16))) → 0 < p →
    ∃ trace trace', runCommands (encryptCommands fill plain) s = some trace ∧
      runCommands (decryptCommands fill (emitted trace)) u = some trace' ∧
      emitted trace' = plain.take (plain.length - p)
end

