-- ==== Sys2Proof/Laws/Bits.lean ====
section
/-! SUPPORT. The laws of the block views and rotations of Machine/Bits.lean. -/

namespace Sys2Proof.Machine

theorem getLsbD_byte {n : Nat} (x : BitVec n) (i k : Nat) :
    (byte x i).getLsbD k = (decide (k < 8) && x.getLsbD (8 * i + k)) :=
  BitVec.getLsbD_extractLsb' _ _ _ _

theorem getLsbD_w0 (b : Block) (k : Nat) : (w0 b).getLsbD k = (decide (k < 64) && b.getLsbD k) := by
  simp only [w0, lane, BitVec.getLsbD_extractLsb', Nat.mul_zero, Nat.zero_add]

theorem getLsbD_w1 (b : Block) (k : Nat) : (w1 b).getLsbD k = (decide (k < 64) && b.getLsbD (64 + k)) := by
  simp only [w1, lane, BitVec.getLsbD_extractLsb', Nat.mul_one]

theorem getLsbD_blk (lo hi : Word) (k : Nat) :
    (blk lo hi).getLsbD k = if k < 64 then lo.getLsbD k else hi.getLsbD (k - 64) :=
  BitVec.getLsbD_append

@[simp] theorem w0_blk (a b : Word) : w0 (blk a b) = a := by
  apply BitVec.eq_of_getLsbD_eq
  intro i hi
  rw [getLsbD_w0, getLsbD_blk]
  simp only [hi, decide_true, Bool.true_and, if_true]

@[simp] theorem w1_blk (a b : Word) : w1 (blk a b) = b := by
  apply BitVec.eq_of_getLsbD_eq
  intro i hi
  have h : ¬64 + i < 64 := by omega
  rw [getLsbD_w1, getLsbD_blk]
  simp only [hi, h, decide_true, Bool.true_and, if_false, Nat.add_sub_cancel_left]

@[simp] theorem blk_w0_w1 (b : Block) : blk (w0 b) (w1 b) = b := by
  apply BitVec.eq_of_getLsbD_eq
  intro i hi
  rw [getLsbD_blk, getLsbD_w0, getLsbD_w1]
  by_cases h : i < 64
  · simp only [h, if_true, decide_true, Bool.true_and]
  · have h1 : i - 64 < 64 := by omega
    have h2 : 64 + (i - 64) = i := by omega
    simp only [h, h1, h2, if_false, decide_true, Bool.true_and]

/-- Two blocks with equal words are equal. -/
theorem block_ext {a b : Block} (h0 : w0 a = w0 b) (h1 : w1 a = w1 b) : a = b := by
  rw [← blk_w0_w1 a, ← blk_w0_w1 b, h0, h1]

@[simp] theorem w0_xor (a b : Block) : w0 (a ^^^ b) = w0 a ^^^ w0 b := by
  apply BitVec.eq_of_getLsbD_eq
  intro i hi
  simp only [getLsbD_w0, BitVec.getLsbD_xor, hi, decide_true, Bool.true_and]

@[simp] theorem w1_xor (a b : Block) : w1 (a ^^^ b) = w1 a ^^^ w1 b := by
  apply BitVec.eq_of_getLsbD_eq
  intro i hi
  simp only [getLsbD_w1, BitVec.getLsbD_xor, hi, decide_true, Bool.true_and]

@[simp] theorem w0_zero : w0 0#128 = 0#64 := by decide

@[simp] theorem w1_zero : w1 0#128 = 0#64 := by decide

theorem getLsbD_ofBytes (n count : Nat) (f : Nat → Byte) (k : Nat) :
    (ofBytes n count f).getLsbD k = (decide (k < n ∧ k < 8 * count) && (f (k / 8)).getLsbD (k % 8)) := by
  unfold ofBytes
  induction count with
  | zero => simp
  | succ c ih =>
    rw [List.range_succ, List.foldl_append]
    simp only [List.foldl_cons, List.foldl_nil, BitVec.getLsbD_or, ih, BitVec.getLsbD_shiftLeft,
      BitVec.getLsbD_setWidth]
    by_cases hn : k < n
    · by_cases h1 : k < 8 * c
      · have : k < 8 * (c + 1) := by omega
        simp [hn, h1, this]
      · by_cases h2 : k < 8 * (c + 1)
        · have hd : k / 8 = c := by omega
          have hm : k - 8 * c = k % 8 := by omega
          have hk : k % 8 < n := by omega
          simp [hn, h1, h2, hd, hm, hk]
        · have : 8 ≤ k - 8 * c := by omega
          have hz : (f c).getLsbD (k - 8 * c) = false := BitVec.getLsbD_of_ge _ _ this
          simp [hn, h1, h2, hz]
    · simp [hn]

/-- Byte i of `ofBytes` is `f i` (00_scope.md R10). -/
theorem byte_ofBytes {n count : Nat} (f : Nat → Byte) {i : Nat} (hi : i < count) (hn : 8 * count ≤ n) :
    byte (ofBytes n count f) i = f i := by
  apply BitVec.eq_of_getLsbD_eq
  intro k hk
  have h1 : 8 * i + k < n := by omega
  have h2 : 8 * i + k < 8 * count := by omega
  have h3 : (8 * i + k) / 8 = i := by omega
  have h4 : (8 * i + k) % 8 = k := by omega
  simp only [getLsbD_byte, getLsbD_ofBytes, hk, h1, h2, h3, h4, decide_true, Bool.true_and, and_self]

/-- Two values of 8·count bits with equal bytes are equal (00_scope.md R10). -/
theorem bytes_ext {count : Nat} {a b : BitVec (8 * count)} (h : ∀ i < count, byte a i = byte b i) : a = b := by
  apply BitVec.eq_of_getLsbD_eq
  intro k hk
  have hk' := congrArg (fun x => x.getLsbD (k % 8)) (h (k / 8) (by omega))
  have h1 : k % 8 < 8 := by omega
  have h2 : 8 * (k / 8) + k % 8 = k := by omega
  simpa only [getLsbD_byte, h1, h2, decide_true, Bool.true_and] using hk'

/-- Two blocks with equal bytes are equal. -/
theorem block_ext_bytes {a b : Block} (h : ∀ i < 16, byte a i = byte b i) : a = b :=
  bytes_ext (count := 16) h

/-- Two words with equal bytes are equal. -/
theorem word_ext_bytes {a b : Word} (h : ∀ i < 8, byte a i = byte b i) : a = b :=
  bytes_ext (count := 8) h

@[simp] theorem rotl_zero {n : Nat} (x : BitVec n) : rotl x 0 = x := by simp [rotl]

@[simp] theorem rotr_zero {n : Nat} (x : BitVec n) : rotr x 0 = x := by simp [rotr]

theorem getLsbD_rotl {n : Nat} (x : BitVec n) (s k : Nat) :
    (rotl x s).getLsbD k = (decide (k < n) && x.getLsbD ((k + (n - s % n)) % n)) := by
  by_cases hk : k < n
  · have hn : 0 < n := by omega
    have hs := Nat.mod_lt s hn
    by_cases ht : s % n = 0
    · have h2 : (k + n) % n = k := by simp [Nat.mod_eq_of_lt hk]
      simp [rotl, ht, hk, h2]
    · simp only [rotl, ht, if_false, BitVec.getLsbD_or, BitVec.getLsbD_shiftLeft, BitVec.getLsbD_ushiftRight]
      by_cases h1 : k < s % n
      · have h2 : (k + (n - s % n)) % n = n - s % n + k := by
          rw [Nat.mod_eq_of_lt (by omega)]; omega
        simp [h1, hk, h2]
      · have h2 : (k + (n - s % n)) % n = k - s % n := by
          have : k + (n - s % n) = k - s % n + n := by omega
          rw [this, Nat.add_mod_right, Nat.mod_eq_of_lt (by omega)]
        have h3 : x.getLsbD (n - s % n + k) = false := BitVec.getLsbD_of_ge _ _ (by omega)
        simp [h1, hk, h2, h3]
  · simp [hk, BitVec.getLsbD_of_ge _ _ (Nat.le_of_not_lt hk)]

theorem getLsbD_rotr {n : Nat} (x : BitVec n) (s k : Nat) :
    (rotr x s).getLsbD k = (decide (k < n) && x.getLsbD ((k + s % n) % n)) := by
  by_cases hk : k < n
  · have hn : 0 < n := by omega
    have hs := Nat.mod_lt s hn
    by_cases ht : s % n = 0
    · simp [rotr, ht, hk, Nat.mod_eq_of_lt hk]
    · simp only [rotr, ht, if_false, BitVec.getLsbD_or, BitVec.getLsbD_shiftLeft, BitVec.getLsbD_ushiftRight]
      by_cases h1 : k < n - s % n
      · have h2 : (k + s % n) % n = s % n + k := by rw [Nat.mod_eq_of_lt (by omega)]; omega
        simp [h1, hk, h2]
      · have h2 : (k + s % n) % n = k - (n - s % n) := by
          have : k + s % n = k - (n - s % n) + n := by omega
          rw [this, Nat.add_mod_right, Nat.mod_eq_of_lt (by omega)]
        have h3 : x.getLsbD (s % n + k) = false := BitVec.getLsbD_of_ge _ _ (by omega)
        simp [h1, hk, h2, h3]
  · simp [hk, BitVec.getLsbD_of_ge _ _ (Nat.le_of_not_lt hk)]

/-- A rotation of zeros. -/
@[simp] theorem rotl_zeros {n : Nat} (s : Nat) : rotl 0#n s = 0#n := by
  apply BitVec.eq_of_getLsbD_eq
  intro k _
  simp [getLsbD_rotl]

@[simp] theorem rotr_zeros {n : Nat} (s : Nat) : rotr 0#n s = 0#n := by
  apply BitVec.eq_of_getLsbD_eq
  intro k _
  simp [getLsbD_rotr]

/-- A rotation of ones. -/
@[simp] theorem rotl_allOnes {n : Nat} (s : Nat) : rotl (BitVec.allOnes n) s = BitVec.allOnes n := by
  apply BitVec.eq_of_getLsbD_eq
  intro k hk
  have h : (k + (n - s % n)) % n < n := Nat.mod_lt _ (by omega)
  simp only [getLsbD_rotl, BitVec.getLsbD_allOnes, h, hk, decide_true, Bool.and_self]

@[simp] theorem rotr_allOnes {n : Nat} (s : Nat) : rotr (BitVec.allOnes n) s = BitVec.allOnes n := by
  apply BitVec.eq_of_getLsbD_eq
  intro k hk
  have h : (k + s % n) % n < n := Nat.mod_lt _ (by omega)
  simp only [getLsbD_rotr, BitVec.getLsbD_allOnes, h, hk, decide_true, Bool.and_self]

end Sys2Proof.Machine
end

