-- ==== Sys2Proof/Laws/Decode.lean ====
section
/-! SUPPORT. The bits of a command word, said once (30_encoding.md R81, R87). -/

namespace Sys2Proof

/-- The opcode map read from the code is the OP column (30_encoding.md R83). -/
theorem ofCode_eq_some (c : BitVec 4) (op : Opcode) : Opcode.ofCode c = some op ↔ op.code = c := by
  have h : ∀ c : BitVec 4, ∀ op ∈ ([.ksched, .feistel, .cipher, .round, .encStart, .encData, .decStart, .decData,
      .abortSrc, .abortSnk, .clear] : List Opcode), Opcode.ofCode c = some op ↔ op.code = c := by decide
  exact h c op (by cases op <;> decide)

/-- The bits of an encoded word: OP 3:0, INV 4, LEN 9:5, LAST 10, NR 15:11, and 0 above (30_encoding.md R81). -/
theorem getLsbD_encodeFields (op : Opcode) (inv : Bool) (len : Nat) (last : Bool) (nr k : Nat) :
    (encodeFields op inv len last nr).getLsbD k =
      if k < 4 then op.code.getLsbD k
      else if k = 4 then inv
      else if k < 10 then (BitVec.ofNat 5 len).getLsbD (k - 5)
      else if k = 10 then last
      else (BitVec.ofNat 5 nr).getLsbD (k - 11) := by
  have h5 : k - 4 - 1 = k - 5 := by omega
  have h10 : k - 5 - 5 = k - 10 := by omega
  have h11 : k - 10 - 1 = k - 11 := by omega
  simp only [encodeFields, BitVec.getLsbD_setWidth, BitVec.getLsbD_append, BitVec.getLsbD_ofBool, h5, h10, h11]
  by_cases h0 : k < 4
  · rw [if_pos h0, if_pos h0, decide_eq_true (by omega), Bool.true_and]
  rw [if_neg h0, if_neg h0]
  by_cases h1 : k = 4
  · simp [h1]
  rw [if_neg h1, if_neg (by omega)]
  by_cases h2 : k < 10
  · rw [if_pos h2, if_pos (by omega), decide_eq_true (by omega), Bool.true_and]
  rw [if_neg h2, if_neg (by omega)]
  by_cases h3 : k = 10
  · simp [h3]
  rw [if_neg h3, if_neg (by omega)]
  by_cases h4 : k < 64
  · rw [decide_eq_true h4, Bool.true_and]
  · rw [decide_eq_false h4, Bool.false_and, BitVec.getLsbD_of_ge _ _ (by omega)]

/-- A word the decoder accepts, and the command it gives (30_encoding.md R84). -/
theorem decode_eq_ok {v : Word} {i : Instr} (h : decode v = .ok i) :
    ∃ op : Opcode, op.code = fieldOp v ∧ v &&& op.mask = op.pattern ∧ i = op.assemble v := by
  unfold decode at h
  cases ho : Opcode.ofCode (fieldOp v) with
  | none => simp [ho] at h
  | some op =>
    simp only [ho] at h
    split at h
    · next hm =>
      injection h with h
      exact ⟨op, (ofCode_eq_some _ _).1 ho, hm, h.symm⟩
    · cases h

end Sys2Proof
end

