-- ==== Sys2Proof/Laws/State.lean ====
section
/-! SUPPORT. One lemma per field per update of State, true by rfl, so that no later proof unfolds a record update; and
the fields of the updates that branch. -/

namespace Sys2Proof.Machine

@[simp] theorem errorEntry_csel (x : Err) (v : Word) (s : State) : (errorEntry x v s).csel = s.csel := rfl
@[simp] theorem errorEntry_apad (x : Err) (v : Word) (s : State) : (errorEntry x v s).apad = s.apad := rfl
@[simp] theorem errorEntry_esrc (x : Err) (v : Word) (s : State) : (errorEntry x v s).esrc = s.esrc := rfl
@[simp] theorem errorEntry_pending (x : Err) (v : Word) (s : State) : (errorEntry x v s).pending = s.pending := rfl
@[simp] theorem errorEntry_fsm (x : Err) (v : Word) (s : State) : (errorEntry x v s).fsm = .error := rfl
@[simp] theorem errorEntry_err (x : Err) (v : Word) (s : State) : (errorEntry x v s).err = x := rfl
@[simp] theorem errorEntry_olen (x : Err) (v : Word) (s : State) : (errorEntry x v s).olen = 0 := rfl
@[simp] theorem errorEntry_wib (x : Err) (v : Word) (s : State) : (errorEntry x v s).wib = s.wib := rfl
@[simp] theorem errorEntry_errcmd (x : Err) (v : Word) (s : State) : (errorEntry x v s).errcmd = v := rfl
@[simp] theorem errorEntry_key0 (x : Err) (v : Word) (s : State) : (errorEntry x v s).key0 = s.key0 := rfl
@[simp] theorem errorEntry_key1 (x : Err) (v : Word) (s : State) : (errorEntry x v s).key1 = s.key1 := rfl
@[simp] theorem errorEntry_din0 (x : Err) (v : Word) (s : State) : (errorEntry x v s).din0 = s.din0 := rfl
@[simp] theorem errorEntry_din1 (x : Err) (v : Word) (s : State) : (errorEntry x v s).din1 = s.din1 := rfl
@[simp] theorem errorEntry_dout0 (x : Err) (v : Word) (s : State) : (errorEntry x v s).dout0 = s.dout0 := rfl
@[simp] theorem errorEntry_dout1 (x : Err) (v : Word) (s : State) : (errorEntry x v s).dout1 = s.dout1 := rfl
@[simp] theorem errorEntry_dout2 (x : Err) (v : Word) (s : State) : (errorEntry x v s).dout2 = s.dout2 := rfl
@[simp] theorem errorEntry_dout3 (x : Err) (v : Word) (s : State) : (errorEntry x v s).dout3 = s.dout3 := rfl
@[simp] theorem errorEntry_cv0 (x : Err) (v : Word) (s : State) : (errorEntry x v s).cv0 = s.cv0 := rfl
@[simp] theorem errorEntry_cv1 (x : Err) (v : Word) (s : State) : (errorEntry x v s).cv1 = s.cv1 := rfl
@[simp] theorem errorEntry_eseed0 (x : Err) (v : Word) (s : State) : (errorEntry x v s).eseed0 = s.eseed0 := rfl
@[simp] theorem errorEntry_eseed1 (x : Err) (v : Word) (s : State) : (errorEntry x v s).eseed1 = s.eseed1 := rfl
@[simp] theorem errorEntry_sk (x : Err) (v : Word) (s : State) : (errorEntry x v s).sk = s.sk := rfl
@[simp] theorem errorEntry_todo (x : Err) (v : Word) (s : State) : (errorEntry x v s).todo = s.todo := rfl
@[simp] theorem errorEntry_reads (x : Err) (v : Word) (s : State) : (errorEntry x v s).reads = s.reads := rfl
@[simp] theorem errorEntry_wait (x : Err) (v : Word) (s : State) : (errorEntry x v s).wait = s.wait := rfl
@[simp] theorem errorEntry_draws (x : Err) (v : Word) (s : State) : (errorEntry x v s).draws = s.draws := rfl
@[simp] theorem errorEntry_inReset (x : Err) (v : Word) (s : State) : (errorEntry x v s).inReset = s.inReset := rfl

@[simp] theorem leaveError_csel (s : State) : (leaveError s).csel = s.csel := rfl
@[simp] theorem leaveError_apad (s : State) : (leaveError s).apad = s.apad := rfl
@[simp] theorem leaveError_esrc (s : State) : (leaveError s).esrc = s.esrc := rfl
@[simp] theorem leaveError_pending (s : State) : (leaveError s).pending = s.pending := rfl
@[simp] theorem leaveError_fsm (s : State) : (leaveError s).fsm = .idle := rfl
@[simp] theorem leaveError_err (s : State) : (leaveError s).err = .noError := rfl
@[simp] theorem leaveError_olen (s : State) : (leaveError s).olen = 0 := rfl
@[simp] theorem leaveError_wib (s : State) : (leaveError s).wib = false := rfl
@[simp] theorem leaveError_errcmd (s : State) : (leaveError s).errcmd = 0 := rfl
@[simp] theorem leaveError_key0 (s : State) : (leaveError s).key0 = s.key0 := rfl
@[simp] theorem leaveError_key1 (s : State) : (leaveError s).key1 = s.key1 := rfl
@[simp] theorem leaveError_din0 (s : State) : (leaveError s).din0 = s.din0 := rfl
@[simp] theorem leaveError_din1 (s : State) : (leaveError s).din1 = s.din1 := rfl
@[simp] theorem leaveError_dout0 (s : State) : (leaveError s).dout0 = 0 := rfl
@[simp] theorem leaveError_dout1 (s : State) : (leaveError s).dout1 = 0 := rfl
@[simp] theorem leaveError_dout2 (s : State) : (leaveError s).dout2 = 0 := rfl
@[simp] theorem leaveError_dout3 (s : State) : (leaveError s).dout3 = 0 := rfl
@[simp] theorem leaveError_cv0 (s : State) : (leaveError s).cv0 = 0 := rfl
@[simp] theorem leaveError_cv1 (s : State) : (leaveError s).cv1 = 0 := rfl
@[simp] theorem leaveError_eseed0 (s : State) : (leaveError s).eseed0 = s.eseed0 := rfl
@[simp] theorem leaveError_eseed1 (s : State) : (leaveError s).eseed1 = s.eseed1 := rfl
@[simp] theorem leaveError_sk (s : State) : (leaveError s).sk = s.sk := rfl
@[simp] theorem leaveError_todo (s : State) : (leaveError s).todo = s.todo := rfl
@[simp] theorem leaveError_reads (s : State) : (leaveError s).reads = s.reads := rfl
@[simp] theorem leaveError_wait (s : State) : (leaveError s).wait = s.wait := rfl
@[simp] theorem leaveError_draws (s : State) : (leaveError s).draws = s.draws := rfl
@[simp] theorem leaveError_inReset (s : State) : (leaveError s).inReset = s.inReset := rfl

@[simp] theorem setOutput_csel (a b : Block) (k : Nat) (s : State) : (setOutput a b k s).csel = s.csel := rfl
@[simp] theorem setOutput_apad (a b : Block) (k : Nat) (s : State) : (setOutput a b k s).apad = s.apad := rfl
@[simp] theorem setOutput_esrc (a b : Block) (k : Nat) (s : State) : (setOutput a b k s).esrc = s.esrc := rfl
@[simp] theorem setOutput_pending (a b : Block) (k : Nat) (s : State) : (setOutput a b k s).pending = s.pending := rfl
@[simp] theorem setOutput_fsm (a b : Block) (k : Nat) (s : State) : (setOutput a b k s).fsm = s.fsm := rfl
@[simp] theorem setOutput_err (a b : Block) (k : Nat) (s : State) : (setOutput a b k s).err = s.err := rfl
@[simp] theorem setOutput_olen (a b : Block) (k : Nat) (s : State) : (setOutput a b k s).olen = Fin.ofNat 33 k := rfl
@[simp] theorem setOutput_wib (a b : Block) (k : Nat) (s : State) : (setOutput a b k s).wib = s.wib := rfl
@[simp] theorem setOutput_errcmd (a b : Block) (k : Nat) (s : State) : (setOutput a b k s).errcmd = s.errcmd := rfl
@[simp] theorem setOutput_key0 (a b : Block) (k : Nat) (s : State) : (setOutput a b k s).key0 = s.key0 := rfl
@[simp] theorem setOutput_key1 (a b : Block) (k : Nat) (s : State) : (setOutput a b k s).key1 = s.key1 := rfl
@[simp] theorem setOutput_din0 (a b : Block) (k : Nat) (s : State) : (setOutput a b k s).din0 = s.din0 := rfl
@[simp] theorem setOutput_din1 (a b : Block) (k : Nat) (s : State) : (setOutput a b k s).din1 = s.din1 := rfl
@[simp] theorem setOutput_dout0 (a b : Block) (k : Nat) (s : State) : (setOutput a b k s).dout0 = w0 a := rfl
@[simp] theorem setOutput_dout1 (a b : Block) (k : Nat) (s : State) : (setOutput a b k s).dout1 = w1 a := rfl
@[simp] theorem setOutput_dout2 (a b : Block) (k : Nat) (s : State) : (setOutput a b k s).dout2 = w0 b := rfl
@[simp] theorem setOutput_dout3 (a b : Block) (k : Nat) (s : State) : (setOutput a b k s).dout3 = w1 b := rfl
@[simp] theorem setOutput_cv0 (a b : Block) (k : Nat) (s : State) : (setOutput a b k s).cv0 = s.cv0 := rfl
@[simp] theorem setOutput_cv1 (a b : Block) (k : Nat) (s : State) : (setOutput a b k s).cv1 = s.cv1 := rfl
@[simp] theorem setOutput_eseed0 (a b : Block) (k : Nat) (s : State) : (setOutput a b k s).eseed0 = s.eseed0 := rfl
@[simp] theorem setOutput_eseed1 (a b : Block) (k : Nat) (s : State) : (setOutput a b k s).eseed1 = s.eseed1 := rfl
@[simp] theorem setOutput_sk (a b : Block) (k : Nat) (s : State) : (setOutput a b k s).sk = s.sk := rfl
@[simp] theorem setOutput_todo (a b : Block) (k : Nat) (s : State) : (setOutput a b k s).todo = s.todo := rfl
@[simp] theorem setOutput_reads (a b : Block) (k : Nat) (s : State) : (setOutput a b k s).reads = s.reads := rfl
@[simp] theorem setOutput_wait (a b : Block) (k : Nat) (s : State) : (setOutput a b k s).wait = s.wait := rfl
@[simp] theorem setOutput_draws (a b : Block) (k : Nat) (s : State) : (setOutput a b k s).draws = s.draws := rfl
@[simp] theorem setOutput_inReset (a b : Block) (k : Nat) (s : State) : (setOutput a b k s).inReset = s.inReset := rfl

@[simp] theorem setChain_csel (c : Block) (s : State) : (setChain c s).csel = s.csel := rfl
@[simp] theorem setChain_apad (c : Block) (s : State) : (setChain c s).apad = s.apad := rfl
@[simp] theorem setChain_esrc (c : Block) (s : State) : (setChain c s).esrc = s.esrc := rfl
@[simp] theorem setChain_pending (c : Block) (s : State) : (setChain c s).pending = s.pending := rfl
@[simp] theorem setChain_fsm (c : Block) (s : State) : (setChain c s).fsm = s.fsm := rfl
@[simp] theorem setChain_err (c : Block) (s : State) : (setChain c s).err = s.err := rfl
@[simp] theorem setChain_olen (c : Block) (s : State) : (setChain c s).olen = s.olen := rfl
@[simp] theorem setChain_wib (c : Block) (s : State) : (setChain c s).wib = s.wib := rfl
@[simp] theorem setChain_errcmd (c : Block) (s : State) : (setChain c s).errcmd = s.errcmd := rfl
@[simp] theorem setChain_key0 (c : Block) (s : State) : (setChain c s).key0 = s.key0 := rfl
@[simp] theorem setChain_key1 (c : Block) (s : State) : (setChain c s).key1 = s.key1 := rfl
@[simp] theorem setChain_din0 (c : Block) (s : State) : (setChain c s).din0 = s.din0 := rfl
@[simp] theorem setChain_din1 (c : Block) (s : State) : (setChain c s).din1 = s.din1 := rfl
@[simp] theorem setChain_dout0 (c : Block) (s : State) : (setChain c s).dout0 = s.dout0 := rfl
@[simp] theorem setChain_dout1 (c : Block) (s : State) : (setChain c s).dout1 = s.dout1 := rfl
@[simp] theorem setChain_dout2 (c : Block) (s : State) : (setChain c s).dout2 = s.dout2 := rfl
@[simp] theorem setChain_dout3 (c : Block) (s : State) : (setChain c s).dout3 = s.dout3 := rfl
@[simp] theorem setChain_cv0 (c : Block) (s : State) : (setChain c s).cv0 = w0 c := rfl
@[simp] theorem setChain_cv1 (c : Block) (s : State) : (setChain c s).cv1 = w1 c := rfl
@[simp] theorem setChain_eseed0 (c : Block) (s : State) : (setChain c s).eseed0 = s.eseed0 := rfl
@[simp] theorem setChain_eseed1 (c : Block) (s : State) : (setChain c s).eseed1 = s.eseed1 := rfl
@[simp] theorem setChain_sk (c : Block) (s : State) : (setChain c s).sk = s.sk := rfl
@[simp] theorem setChain_todo (c : Block) (s : State) : (setChain c s).todo = s.todo := rfl
@[simp] theorem setChain_reads (c : Block) (s : State) : (setChain c s).reads = s.reads := rfl
@[simp] theorem setChain_wait (c : Block) (s : State) : (setChain c s).wait = s.wait := rfl
@[simp] theorem setChain_draws (c : Block) (s : State) : (setChain c s).draws = s.draws := rfl
@[simp] theorem setChain_inReset (c : Block) (s : State) : (setChain c s).inReset = s.inReset := rfl

@[simp] theorem setSubkeys_csel (ks : Vector Word 16) (s : State) : (setSubkeys ks s).csel = s.csel := rfl
@[simp] theorem setSubkeys_apad (ks : Vector Word 16) (s : State) : (setSubkeys ks s).apad = s.apad := rfl
@[simp] theorem setSubkeys_esrc (ks : Vector Word 16) (s : State) : (setSubkeys ks s).esrc = s.esrc := rfl
@[simp] theorem setSubkeys_pending (ks : Vector Word 16) (s : State) : (setSubkeys ks s).pending = s.pending := rfl
@[simp] theorem setSubkeys_fsm (ks : Vector Word 16) (s : State) : (setSubkeys ks s).fsm = s.fsm := rfl
@[simp] theorem setSubkeys_err (ks : Vector Word 16) (s : State) : (setSubkeys ks s).err = s.err := rfl
@[simp] theorem setSubkeys_olen (ks : Vector Word 16) (s : State) : (setSubkeys ks s).olen = s.olen := rfl
@[simp] theorem setSubkeys_wib (ks : Vector Word 16) (s : State) : (setSubkeys ks s).wib = s.wib := rfl
@[simp] theorem setSubkeys_errcmd (ks : Vector Word 16) (s : State) : (setSubkeys ks s).errcmd = s.errcmd := rfl
@[simp] theorem setSubkeys_key0 (ks : Vector Word 16) (s : State) : (setSubkeys ks s).key0 = s.key0 := rfl
@[simp] theorem setSubkeys_key1 (ks : Vector Word 16) (s : State) : (setSubkeys ks s).key1 = s.key1 := rfl
@[simp] theorem setSubkeys_din0 (ks : Vector Word 16) (s : State) : (setSubkeys ks s).din0 = s.din0 := rfl
@[simp] theorem setSubkeys_din1 (ks : Vector Word 16) (s : State) : (setSubkeys ks s).din1 = s.din1 := rfl
@[simp] theorem setSubkeys_dout0 (ks : Vector Word 16) (s : State) : (setSubkeys ks s).dout0 = s.dout0 := rfl
@[simp] theorem setSubkeys_dout1 (ks : Vector Word 16) (s : State) : (setSubkeys ks s).dout1 = s.dout1 := rfl
@[simp] theorem setSubkeys_dout2 (ks : Vector Word 16) (s : State) : (setSubkeys ks s).dout2 = s.dout2 := rfl
@[simp] theorem setSubkeys_dout3 (ks : Vector Word 16) (s : State) : (setSubkeys ks s).dout3 = s.dout3 := rfl
@[simp] theorem setSubkeys_cv0 (ks : Vector Word 16) (s : State) : (setSubkeys ks s).cv0 = s.cv0 := rfl
@[simp] theorem setSubkeys_cv1 (ks : Vector Word 16) (s : State) : (setSubkeys ks s).cv1 = s.cv1 := rfl
@[simp] theorem setSubkeys_eseed0 (ks : Vector Word 16) (s : State) : (setSubkeys ks s).eseed0 = s.eseed0 := rfl
@[simp] theorem setSubkeys_eseed1 (ks : Vector Word 16) (s : State) : (setSubkeys ks s).eseed1 = s.eseed1 := rfl
@[simp] theorem setSubkeys_sk (ks : Vector Word 16) (s : State) : (setSubkeys ks s).sk = ks := rfl
@[simp] theorem setSubkeys_todo (ks : Vector Word 16) (s : State) : (setSubkeys ks s).todo = s.todo := rfl
@[simp] theorem setSubkeys_reads (ks : Vector Word 16) (s : State) : (setSubkeys ks s).reads = s.reads := rfl
@[simp] theorem setSubkeys_wait (ks : Vector Word 16) (s : State) : (setSubkeys ks s).wait = s.wait := rfl
@[simp] theorem setSubkeys_draws (ks : Vector Word 16) (s : State) : (setSubkeys ks s).draws = s.draws := rfl
@[simp] theorem setSubkeys_inReset (ks : Vector Word 16) (s : State) : (setSubkeys ks s).inReset = s.inReset := rfl

@[simp] theorem writeSchedule_csel (s : State) : (writeSchedule s).csel = s.csel := rfl
@[simp] theorem writeSchedule_apad (s : State) : (writeSchedule s).apad = s.apad := rfl
@[simp] theorem writeSchedule_esrc (s : State) : (writeSchedule s).esrc = s.esrc := rfl
@[simp] theorem writeSchedule_pending (s : State) : (writeSchedule s).pending = s.pending := rfl
@[simp] theorem writeSchedule_fsm (s : State) : (writeSchedule s).fsm = s.fsm := rfl
@[simp] theorem writeSchedule_err (s : State) : (writeSchedule s).err = s.err := rfl
@[simp] theorem writeSchedule_olen (s : State) : (writeSchedule s).olen = s.olen := rfl
@[simp] theorem writeSchedule_wib (s : State) : (writeSchedule s).wib = s.wib := rfl
@[simp] theorem writeSchedule_errcmd (s : State) : (writeSchedule s).errcmd = s.errcmd := rfl
@[simp] theorem writeSchedule_key0 (s : State) : (writeSchedule s).key0 = s.key0 := rfl
@[simp] theorem writeSchedule_key1 (s : State) : (writeSchedule s).key1 = s.key1 := rfl
@[simp] theorem writeSchedule_din0 (s : State) : (writeSchedule s).din0 = s.din0 := rfl
@[simp] theorem writeSchedule_din1 (s : State) : (writeSchedule s).din1 = s.din1 := rfl
@[simp] theorem writeSchedule_dout0 (s : State) : (writeSchedule s).dout0 = s.dout0 := rfl
@[simp] theorem writeSchedule_dout1 (s : State) : (writeSchedule s).dout1 = s.dout1 := rfl
@[simp] theorem writeSchedule_dout2 (s : State) : (writeSchedule s).dout2 = s.dout2 := rfl
@[simp] theorem writeSchedule_dout3 (s : State) : (writeSchedule s).dout3 = s.dout3 := rfl
@[simp] theorem writeSchedule_cv0 (s : State) : (writeSchedule s).cv0 = s.cv0 := rfl
@[simp] theorem writeSchedule_cv1 (s : State) : (writeSchedule s).cv1 = s.cv1 := rfl
@[simp] theorem writeSchedule_eseed0 (s : State) : (writeSchedule s).eseed0 = s.eseed0 := rfl
@[simp] theorem writeSchedule_eseed1 (s : State) : (writeSchedule s).eseed1 = s.eseed1 := rfl
@[simp] theorem writeSchedule_sk (s : State) : (writeSchedule s).sk = schedule s.csel s.key0 s.key1 := rfl
@[simp] theorem writeSchedule_todo (s : State) : (writeSchedule s).todo = s.todo := rfl
@[simp] theorem writeSchedule_reads (s : State) : (writeSchedule s).reads = s.reads := rfl
@[simp] theorem writeSchedule_wait (s : State) : (writeSchedule s).wait = s.wait := rfl
@[simp] theorem writeSchedule_draws (s : State) : (writeSchedule s).draws = s.draws := rfl
@[simp] theorem writeSchedule_inReset (s : State) : (writeSchedule s).inReset = s.inReset := rfl

@[simp] theorem setFsm_csel (f : Fsm) (s : State) : (setFsm f s).csel = s.csel := rfl
@[simp] theorem setFsm_apad (f : Fsm) (s : State) : (setFsm f s).apad = s.apad := rfl
@[simp] theorem setFsm_esrc (f : Fsm) (s : State) : (setFsm f s).esrc = s.esrc := rfl
@[simp] theorem setFsm_pending (f : Fsm) (s : State) : (setFsm f s).pending = s.pending := rfl
@[simp] theorem setFsm_fsm (f : Fsm) (s : State) : (setFsm f s).fsm = f := rfl
@[simp] theorem setFsm_err (f : Fsm) (s : State) : (setFsm f s).err = s.err := rfl
@[simp] theorem setFsm_olen (f : Fsm) (s : State) : (setFsm f s).olen = s.olen := rfl
@[simp] theorem setFsm_wib (f : Fsm) (s : State) : (setFsm f s).wib = s.wib := rfl
@[simp] theorem setFsm_errcmd (f : Fsm) (s : State) : (setFsm f s).errcmd = s.errcmd := rfl
@[simp] theorem setFsm_key0 (f : Fsm) (s : State) : (setFsm f s).key0 = s.key0 := rfl
@[simp] theorem setFsm_key1 (f : Fsm) (s : State) : (setFsm f s).key1 = s.key1 := rfl
@[simp] theorem setFsm_din0 (f : Fsm) (s : State) : (setFsm f s).din0 = s.din0 := rfl
@[simp] theorem setFsm_din1 (f : Fsm) (s : State) : (setFsm f s).din1 = s.din1 := rfl
@[simp] theorem setFsm_dout0 (f : Fsm) (s : State) : (setFsm f s).dout0 = s.dout0 := rfl
@[simp] theorem setFsm_dout1 (f : Fsm) (s : State) : (setFsm f s).dout1 = s.dout1 := rfl
@[simp] theorem setFsm_dout2 (f : Fsm) (s : State) : (setFsm f s).dout2 = s.dout2 := rfl
@[simp] theorem setFsm_dout3 (f : Fsm) (s : State) : (setFsm f s).dout3 = s.dout3 := rfl
@[simp] theorem setFsm_cv0 (f : Fsm) (s : State) : (setFsm f s).cv0 = s.cv0 := rfl
@[simp] theorem setFsm_cv1 (f : Fsm) (s : State) : (setFsm f s).cv1 = s.cv1 := rfl
@[simp] theorem setFsm_eseed0 (f : Fsm) (s : State) : (setFsm f s).eseed0 = s.eseed0 := rfl
@[simp] theorem setFsm_eseed1 (f : Fsm) (s : State) : (setFsm f s).eseed1 = s.eseed1 := rfl
@[simp] theorem setFsm_sk (f : Fsm) (s : State) : (setFsm f s).sk = s.sk := rfl
@[simp] theorem setFsm_todo (f : Fsm) (s : State) : (setFsm f s).todo = s.todo := rfl
@[simp] theorem setFsm_reads (f : Fsm) (s : State) : (setFsm f s).reads = s.reads := rfl
@[simp] theorem setFsm_wait (f : Fsm) (s : State) : (setFsm f s).wait = s.wait := rfl
@[simp] theorem setFsm_draws (f : Fsm) (s : State) : (setFsm f s).draws = s.draws := rfl
@[simp] theorem setFsm_inReset (f : Fsm) (s : State) : (setFsm f s).inReset = s.inReset := rfl

@[simp] theorem acceptCommand_csel (v : Word) (s : State) : (acceptCommand v s).csel = s.csel := rfl
@[simp] theorem acceptCommand_apad (v : Word) (s : State) : (acceptCommand v s).apad = s.apad := rfl
@[simp] theorem acceptCommand_esrc (v : Word) (s : State) : (acceptCommand v s).esrc = s.esrc := rfl
@[simp] theorem acceptCommand_pending (v : Word) (s : State) : (acceptCommand v s).pending = some v := rfl
@[simp] theorem acceptCommand_fsm (v : Word) (s : State) : (acceptCommand v s).fsm = s.fsm := rfl
@[simp] theorem acceptCommand_err (v : Word) (s : State) : (acceptCommand v s).err = s.err := rfl
@[simp] theorem acceptCommand_olen (v : Word) (s : State) : (acceptCommand v s).olen = s.olen := rfl
@[simp] theorem acceptCommand_wib (v : Word) (s : State) : (acceptCommand v s).wib = s.wib := rfl
@[simp] theorem acceptCommand_errcmd (v : Word) (s : State) : (acceptCommand v s).errcmd = s.errcmd := rfl
@[simp] theorem acceptCommand_key0 (v : Word) (s : State) : (acceptCommand v s).key0 = s.key0 := rfl
@[simp] theorem acceptCommand_key1 (v : Word) (s : State) : (acceptCommand v s).key1 = s.key1 := rfl
@[simp] theorem acceptCommand_din0 (v : Word) (s : State) : (acceptCommand v s).din0 = s.din0 := rfl
@[simp] theorem acceptCommand_din1 (v : Word) (s : State) : (acceptCommand v s).din1 = s.din1 := rfl
@[simp] theorem acceptCommand_dout0 (v : Word) (s : State) : (acceptCommand v s).dout0 = s.dout0 := rfl
@[simp] theorem acceptCommand_dout1 (v : Word) (s : State) : (acceptCommand v s).dout1 = s.dout1 := rfl
@[simp] theorem acceptCommand_dout2 (v : Word) (s : State) : (acceptCommand v s).dout2 = s.dout2 := rfl
@[simp] theorem acceptCommand_dout3 (v : Word) (s : State) : (acceptCommand v s).dout3 = s.dout3 := rfl
@[simp] theorem acceptCommand_cv0 (v : Word) (s : State) : (acceptCommand v s).cv0 = s.cv0 := rfl
@[simp] theorem acceptCommand_cv1 (v : Word) (s : State) : (acceptCommand v s).cv1 = s.cv1 := rfl
@[simp] theorem acceptCommand_eseed0 (v : Word) (s : State) : (acceptCommand v s).eseed0 = s.eseed0 := rfl
@[simp] theorem acceptCommand_eseed1 (v : Word) (s : State) : (acceptCommand v s).eseed1 = s.eseed1 := rfl
@[simp] theorem acceptCommand_sk (v : Word) (s : State) : (acceptCommand v s).sk = s.sk := rfl
@[simp] theorem acceptCommand_todo (v : Word) (s : State) : (acceptCommand v s).todo = s.todo := rfl
@[simp] theorem acceptCommand_reads (v : Word) (s : State) : (acceptCommand v s).reads = s.reads := rfl
@[simp] theorem acceptCommand_wait (v : Word) (s : State) : (acceptCommand v s).wait = Config.cmdWindow s.draws := rfl
@[simp] theorem acceptCommand_draws (v : Word) (s : State) : (acceptCommand v s).draws = s.draws + 1 := rfl
@[simp] theorem acceptCommand_inReset (v : Word) (s : State) : (acceptCommand v s).inReset = s.inReset := rfl

@[simp] theorem complete_csel (s : State) : (complete s).csel = s.csel := rfl
@[simp] theorem complete_apad (s : State) : (complete s).apad = s.apad := rfl
@[simp] theorem complete_esrc (s : State) : (complete s).esrc = s.esrc := rfl
@[simp] theorem complete_pending (s : State) : (complete s).pending = none := rfl
@[simp] theorem complete_fsm (s : State) : (complete s).fsm = s.fsm := rfl
@[simp] theorem complete_err (s : State) : (complete s).err = s.err := rfl
@[simp] theorem complete_olen (s : State) : (complete s).olen = s.olen := rfl
@[simp] theorem complete_wib (s : State) : (complete s).wib = s.wib := rfl
@[simp] theorem complete_errcmd (s : State) : (complete s).errcmd = s.errcmd := rfl
@[simp] theorem complete_key0 (s : State) : (complete s).key0 = s.key0 := rfl
@[simp] theorem complete_key1 (s : State) : (complete s).key1 = s.key1 := rfl
@[simp] theorem complete_din0 (s : State) : (complete s).din0 = s.din0 := rfl
@[simp] theorem complete_din1 (s : State) : (complete s).din1 = s.din1 := rfl
@[simp] theorem complete_dout0 (s : State) : (complete s).dout0 = s.dout0 := rfl
@[simp] theorem complete_dout1 (s : State) : (complete s).dout1 = s.dout1 := rfl
@[simp] theorem complete_dout2 (s : State) : (complete s).dout2 = s.dout2 := rfl
@[simp] theorem complete_dout3 (s : State) : (complete s).dout3 = s.dout3 := rfl
@[simp] theorem complete_cv0 (s : State) : (complete s).cv0 = s.cv0 := rfl
@[simp] theorem complete_cv1 (s : State) : (complete s).cv1 = s.cv1 := rfl
@[simp] theorem complete_eseed0 (s : State) : (complete s).eseed0 = s.eseed0 := rfl
@[simp] theorem complete_eseed1 (s : State) : (complete s).eseed1 = s.eseed1 := rfl
@[simp] theorem complete_sk (s : State) : (complete s).sk = s.sk := rfl
@[simp] theorem complete_todo (s : State) : (complete s).todo = s.todo := rfl
@[simp] theorem complete_reads (s : State) : (complete s).reads = s.reads := rfl
@[simp] theorem complete_wait (s : State) : (complete s).wait = 0 := rfl
@[simp] theorem complete_draws (s : State) : (complete s).draws = s.draws := rfl
@[simp] theorem complete_inReset (s : State) : (complete s).inReset = s.inReset := rfl

@[simp] theorem holdReset_csel (s : State) : (holdReset s).csel = false := rfl
@[simp] theorem holdReset_apad (s : State) : (holdReset s).apad = false := rfl
@[simp] theorem holdReset_esrc (s : State) : (holdReset s).esrc = false := rfl
@[simp] theorem holdReset_pending (s : State) : (holdReset s).pending = none := rfl
@[simp] theorem holdReset_fsm (s : State) : (holdReset s).fsm = .idle := rfl
@[simp] theorem holdReset_err (s : State) : (holdReset s).err = .noError := rfl
@[simp] theorem holdReset_olen (s : State) : (holdReset s).olen = 0 := rfl
@[simp] theorem holdReset_wib (s : State) : (holdReset s).wib = false := rfl
@[simp] theorem holdReset_errcmd (s : State) : (holdReset s).errcmd = 0 := rfl
@[simp] theorem holdReset_key0 (s : State) : (holdReset s).key0 = 0 := rfl
@[simp] theorem holdReset_key1 (s : State) : (holdReset s).key1 = 0 := rfl
@[simp] theorem holdReset_din0 (s : State) : (holdReset s).din0 = 0 := rfl
@[simp] theorem holdReset_din1 (s : State) : (holdReset s).din1 = 0 := rfl
@[simp] theorem holdReset_dout0 (s : State) : (holdReset s).dout0 = 0 := rfl
@[simp] theorem holdReset_dout1 (s : State) : (holdReset s).dout1 = 0 := rfl
@[simp] theorem holdReset_dout2 (s : State) : (holdReset s).dout2 = 0 := rfl
@[simp] theorem holdReset_dout3 (s : State) : (holdReset s).dout3 = 0 := rfl
@[simp] theorem holdReset_cv0 (s : State) : (holdReset s).cv0 = 0 := rfl
@[simp] theorem holdReset_cv1 (s : State) : (holdReset s).cv1 = 0 := rfl
@[simp] theorem holdReset_eseed0 (s : State) : (holdReset s).eseed0 = 0 := rfl
@[simp] theorem holdReset_eseed1 (s : State) : (holdReset s).eseed1 = 0 := rfl
@[simp] theorem holdReset_sk (s : State) : (holdReset s).sk = Vector.replicate 16 0 := rfl
@[simp] theorem holdReset_todo (s : State) : (holdReset s).todo = s.todo := rfl
@[simp] theorem holdReset_reads (s : State) : (holdReset s).reads = s.reads := rfl
@[simp] theorem holdReset_wait (s : State) : (holdReset s).wait = 0 := rfl
@[simp] theorem holdReset_draws (s : State) : (holdReset s).draws = s.draws := rfl
@[simp] theorem holdReset_inReset (s : State) : (holdReset s).inReset = true := rfl

@[simp] theorem releaseReset_csel (s : State) : (releaseReset s).csel = false := rfl
@[simp] theorem releaseReset_apad (s : State) : (releaseReset s).apad = false := rfl
@[simp] theorem releaseReset_esrc (s : State) : (releaseReset s).esrc = false := rfl
@[simp] theorem releaseReset_pending (s : State) : (releaseReset s).pending = none := rfl
@[simp] theorem releaseReset_fsm (s : State) : (releaseReset s).fsm = .idle := rfl
@[simp] theorem releaseReset_err (s : State) : (releaseReset s).err = .noError := rfl
@[simp] theorem releaseReset_olen (s : State) : (releaseReset s).olen = 0 := rfl
@[simp] theorem releaseReset_wib (s : State) : (releaseReset s).wib = false := rfl
@[simp] theorem releaseReset_errcmd (s : State) : (releaseReset s).errcmd = 0 := rfl
@[simp] theorem releaseReset_key0 (s : State) : (releaseReset s).key0 = 0 := rfl
@[simp] theorem releaseReset_key1 (s : State) : (releaseReset s).key1 = 0 := rfl
@[simp] theorem releaseReset_din0 (s : State) : (releaseReset s).din0 = 0 := rfl
@[simp] theorem releaseReset_din1 (s : State) : (releaseReset s).din1 = 0 := rfl
@[simp] theorem releaseReset_dout0 (s : State) : (releaseReset s).dout0 = 0 := rfl
@[simp] theorem releaseReset_dout1 (s : State) : (releaseReset s).dout1 = 0 := rfl
@[simp] theorem releaseReset_dout2 (s : State) : (releaseReset s).dout2 = 0 := rfl
@[simp] theorem releaseReset_dout3 (s : State) : (releaseReset s).dout3 = 0 := rfl
@[simp] theorem releaseReset_cv0 (s : State) : (releaseReset s).cv0 = 0 := rfl
@[simp] theorem releaseReset_cv1 (s : State) : (releaseReset s).cv1 = 0 := rfl
@[simp] theorem releaseReset_eseed0 (s : State) : (releaseReset s).eseed0 = 0 := rfl
@[simp] theorem releaseReset_eseed1 (s : State) : (releaseReset s).eseed1 = 0 := rfl
@[simp] theorem releaseReset_sk (s : State) : (releaseReset s).sk = Vector.replicate 16 0 := rfl
@[simp] theorem releaseReset_todo (s : State) : (releaseReset s).todo = s.todo := rfl
@[simp] theorem releaseReset_reads (s : State) : (releaseReset s).reads = s.reads := rfl
@[simp] theorem releaseReset_wait (s : State) : (releaseReset s).wait = 0 := rfl
@[simp] theorem releaseReset_draws (s : State) : (releaseReset s).draws = s.draws := rfl
@[simp] theorem releaseReset_inReset (s : State) : (releaseReset s).inReset = false := rfl

@[simp] theorem hostRead_csel (idx : BitVec 5) (s : State) : (hostRead idx s).csel = s.csel := rfl
@[simp] theorem hostRead_apad (idx : BitVec 5) (s : State) : (hostRead idx s).apad = s.apad := rfl
@[simp] theorem hostRead_esrc (idx : BitVec 5) (s : State) : (hostRead idx s).esrc = s.esrc := rfl
@[simp] theorem hostRead_pending (idx : BitVec 5) (s : State) : (hostRead idx s).pending = s.pending := rfl
@[simp] theorem hostRead_fsm (idx : BitVec 5) (s : State) : (hostRead idx s).fsm = s.fsm := rfl
@[simp] theorem hostRead_err (idx : BitVec 5) (s : State) : (hostRead idx s).err = s.err := rfl
@[simp] theorem hostRead_olen (idx : BitVec 5) (s : State) : (hostRead idx s).olen = s.olen := rfl
@[simp] theorem hostRead_wib (idx : BitVec 5) (s : State) : (hostRead idx s).wib = s.wib := rfl
@[simp] theorem hostRead_errcmd (idx : BitVec 5) (s : State) : (hostRead idx s).errcmd = s.errcmd := rfl
@[simp] theorem hostRead_key0 (idx : BitVec 5) (s : State) : (hostRead idx s).key0 = s.key0 := rfl
@[simp] theorem hostRead_key1 (idx : BitVec 5) (s : State) : (hostRead idx s).key1 = s.key1 := rfl
@[simp] theorem hostRead_din0 (idx : BitVec 5) (s : State) : (hostRead idx s).din0 = s.din0 := rfl
@[simp] theorem hostRead_din1 (idx : BitVec 5) (s : State) : (hostRead idx s).din1 = s.din1 := rfl
@[simp] theorem hostRead_dout0 (idx : BitVec 5) (s : State) : (hostRead idx s).dout0 = s.dout0 := rfl
@[simp] theorem hostRead_dout1 (idx : BitVec 5) (s : State) : (hostRead idx s).dout1 = s.dout1 := rfl
@[simp] theorem hostRead_dout2 (idx : BitVec 5) (s : State) : (hostRead idx s).dout2 = s.dout2 := rfl
@[simp] theorem hostRead_dout3 (idx : BitVec 5) (s : State) : (hostRead idx s).dout3 = s.dout3 := rfl
@[simp] theorem hostRead_cv0 (idx : BitVec 5) (s : State) : (hostRead idx s).cv0 = s.cv0 := rfl
@[simp] theorem hostRead_cv1 (idx : BitVec 5) (s : State) : (hostRead idx s).cv1 = s.cv1 := rfl
@[simp] theorem hostRead_eseed0 (idx : BitVec 5) (s : State) : (hostRead idx s).eseed0 = s.eseed0 := rfl
@[simp] theorem hostRead_eseed1 (idx : BitVec 5) (s : State) : (hostRead idx s).eseed1 = s.eseed1 := rfl
@[simp] theorem hostRead_sk (idx : BitVec 5) (s : State) : (hostRead idx s).sk = s.sk := rfl
@[simp] theorem hostRead_todo (idx : BitVec 5) (s : State) : (hostRead idx s).todo = s.todo := rfl
@[simp] theorem hostRead_reads (idx : BitVec 5) (s : State) : (hostRead idx s).reads = (ReadRecord.mk idx (readValue s (Reg.ofIndex idx)) :: s.reads) := rfl
@[simp] theorem hostRead_wait (idx : BitVec 5) (s : State) : (hostRead idx s).wait = s.wait := rfl
@[simp] theorem hostRead_draws (idx : BitVec 5) (s : State) : (hostRead idx s).draws = s.draws + 1 := rfl
@[simp] theorem hostRead_inReset (idx : BitVec 5) (s : State) : (hostRead idx s).inReset = s.inReset := rfl

@[simp] theorem placeWord_csel (v : Word) (s : State) : (placeWord v s).csel = s.csel := rfl
@[simp] theorem placeWord_apad (v : Word) (s : State) : (placeWord v s).apad = s.apad := rfl
@[simp] theorem placeWord_esrc (v : Word) (s : State) : (placeWord v s).esrc = s.esrc := rfl
@[simp] theorem placeWord_pending (v : Word) (s : State) : (placeWord v s).pending = some v := rfl
@[simp] theorem placeWord_fsm (v : Word) (s : State) : (placeWord v s).fsm = s.fsm := rfl
@[simp] theorem placeWord_err (v : Word) (s : State) : (placeWord v s).err = s.err := rfl
@[simp] theorem placeWord_olen (v : Word) (s : State) : (placeWord v s).olen = s.olen := rfl
@[simp] theorem placeWord_wib (v : Word) (s : State) : (placeWord v s).wib = s.wib := rfl
@[simp] theorem placeWord_errcmd (v : Word) (s : State) : (placeWord v s).errcmd = s.errcmd := rfl
@[simp] theorem placeWord_key0 (v : Word) (s : State) : (placeWord v s).key0 = s.key0 := rfl
@[simp] theorem placeWord_key1 (v : Word) (s : State) : (placeWord v s).key1 = s.key1 := rfl
@[simp] theorem placeWord_din0 (v : Word) (s : State) : (placeWord v s).din0 = s.din0 := rfl
@[simp] theorem placeWord_din1 (v : Word) (s : State) : (placeWord v s).din1 = s.din1 := rfl
@[simp] theorem placeWord_dout0 (v : Word) (s : State) : (placeWord v s).dout0 = s.dout0 := rfl
@[simp] theorem placeWord_dout1 (v : Word) (s : State) : (placeWord v s).dout1 = s.dout1 := rfl
@[simp] theorem placeWord_dout2 (v : Word) (s : State) : (placeWord v s).dout2 = s.dout2 := rfl
@[simp] theorem placeWord_dout3 (v : Word) (s : State) : (placeWord v s).dout3 = s.dout3 := rfl
@[simp] theorem placeWord_cv0 (v : Word) (s : State) : (placeWord v s).cv0 = s.cv0 := rfl
@[simp] theorem placeWord_cv1 (v : Word) (s : State) : (placeWord v s).cv1 = s.cv1 := rfl
@[simp] theorem placeWord_eseed0 (v : Word) (s : State) : (placeWord v s).eseed0 = s.eseed0 := rfl
@[simp] theorem placeWord_eseed1 (v : Word) (s : State) : (placeWord v s).eseed1 = s.eseed1 := rfl
@[simp] theorem placeWord_sk (v : Word) (s : State) : (placeWord v s).sk = s.sk := rfl
@[simp] theorem placeWord_todo (v : Word) (s : State) : (placeWord v s).todo = s.todo := rfl
@[simp] theorem placeWord_reads (v : Word) (s : State) : (placeWord v s).reads = s.reads := rfl
@[simp] theorem placeWord_wait (v : Word) (s : State) : (placeWord v s).wait = 0 := rfl
@[simp] theorem placeWord_draws (v : Word) (s : State) : (placeWord v s).draws = s.draws := rfl
@[simp] theorem placeWord_inReset (v : Word) (s : State) : (placeWord v s).inReset = false := rfl

@[simp] theorem consumeEntropy_csel (s : State) : (consumeEntropy s).csel = s.csel := by
  unfold consumeEntropy; split <;> rfl
@[simp] theorem consumeEntropy_apad (s : State) : (consumeEntropy s).apad = s.apad := by
  unfold consumeEntropy; split <;> rfl
@[simp] theorem consumeEntropy_esrc (s : State) : (consumeEntropy s).esrc = s.esrc := by
  unfold consumeEntropy; split <;> rfl
@[simp] theorem consumeEntropy_pending (s : State) : (consumeEntropy s).pending = s.pending := by
  unfold consumeEntropy; split <;> rfl
@[simp] theorem consumeEntropy_fsm (s : State) : (consumeEntropy s).fsm = s.fsm := by
  unfold consumeEntropy; split <;> rfl
@[simp] theorem consumeEntropy_err (s : State) : (consumeEntropy s).err = s.err := by
  unfold consumeEntropy; split <;> rfl
@[simp] theorem consumeEntropy_olen (s : State) : (consumeEntropy s).olen = s.olen := by
  unfold consumeEntropy; split <;> rfl
@[simp] theorem consumeEntropy_wib (s : State) : (consumeEntropy s).wib = s.wib := by
  unfold consumeEntropy; split <;> rfl
@[simp] theorem consumeEntropy_errcmd (s : State) : (consumeEntropy s).errcmd = s.errcmd := by
  unfold consumeEntropy; split <;> rfl
@[simp] theorem consumeEntropy_key0 (s : State) : (consumeEntropy s).key0 = s.key0 := by
  unfold consumeEntropy; split <;> rfl
@[simp] theorem consumeEntropy_key1 (s : State) : (consumeEntropy s).key1 = s.key1 := by
  unfold consumeEntropy; split <;> rfl
@[simp] theorem consumeEntropy_din0 (s : State) : (consumeEntropy s).din0 = s.din0 := by
  unfold consumeEntropy; split <;> rfl
@[simp] theorem consumeEntropy_din1 (s : State) : (consumeEntropy s).din1 = s.din1 := by
  unfold consumeEntropy; split <;> rfl
@[simp] theorem consumeEntropy_dout0 (s : State) : (consumeEntropy s).dout0 = s.dout0 := by
  unfold consumeEntropy; split <;> rfl
@[simp] theorem consumeEntropy_dout1 (s : State) : (consumeEntropy s).dout1 = s.dout1 := by
  unfold consumeEntropy; split <;> rfl
@[simp] theorem consumeEntropy_dout2 (s : State) : (consumeEntropy s).dout2 = s.dout2 := by
  unfold consumeEntropy; split <;> rfl
@[simp] theorem consumeEntropy_dout3 (s : State) : (consumeEntropy s).dout3 = s.dout3 := by
  unfold consumeEntropy; split <;> rfl
@[simp] theorem consumeEntropy_cv0 (s : State) : (consumeEntropy s).cv0 = s.cv0 := by
  unfold consumeEntropy; split <;> rfl
@[simp] theorem consumeEntropy_cv1 (s : State) : (consumeEntropy s).cv1 = s.cv1 := by
  unfold consumeEntropy; split <;> rfl
@[simp] theorem consumeEntropy_eseed0 (s : State) : (consumeEntropy s).eseed0 = s.eseed0 := by
  unfold consumeEntropy; split <;> rfl
@[simp] theorem consumeEntropy_eseed1 (s : State) : (consumeEntropy s).eseed1 = s.eseed1 := by
  unfold consumeEntropy; split <;> rfl
@[simp] theorem consumeEntropy_sk (s : State) : (consumeEntropy s).sk = s.sk := by
  unfold consumeEntropy; split <;> rfl
@[simp] theorem consumeEntropy_todo (s : State) : (consumeEntropy s).todo = s.todo := by
  unfold consumeEntropy; split <;> rfl
@[simp] theorem consumeEntropy_reads (s : State) : (consumeEntropy s).reads = s.reads := by
  unfold consumeEntropy; split <;> rfl
@[simp] theorem consumeEntropy_wait (s : State) : (consumeEntropy s).wait = s.wait := by
  unfold consumeEntropy; split <;> rfl
@[simp] theorem consumeEntropy_inReset (s : State) : (consumeEntropy s).inReset = s.inReset := by
  unfold consumeEntropy; split <;> rfl

@[simp] theorem finishIf_csel (b : Bool) (s : State) : (finishIf b s).csel = s.csel := by
  unfold finishIf; split <;> rfl
@[simp] theorem finishIf_apad (b : Bool) (s : State) : (finishIf b s).apad = s.apad := by
  unfold finishIf; split <;> rfl
@[simp] theorem finishIf_esrc (b : Bool) (s : State) : (finishIf b s).esrc = s.esrc := by
  unfold finishIf; split <;> rfl
@[simp] theorem finishIf_pending (b : Bool) (s : State) : (finishIf b s).pending = s.pending := by
  unfold finishIf; split <;> rfl
@[simp] theorem finishIf_err (b : Bool) (s : State) : (finishIf b s).err = s.err := by
  unfold finishIf; split <;> rfl
@[simp] theorem finishIf_olen (b : Bool) (s : State) : (finishIf b s).olen = s.olen := by
  unfold finishIf; split <;> rfl
@[simp] theorem finishIf_wib (b : Bool) (s : State) : (finishIf b s).wib = s.wib := by
  unfold finishIf; split <;> rfl
@[simp] theorem finishIf_errcmd (b : Bool) (s : State) : (finishIf b s).errcmd = s.errcmd := by
  unfold finishIf; split <;> rfl
@[simp] theorem finishIf_key0 (b : Bool) (s : State) : (finishIf b s).key0 = s.key0 := by
  unfold finishIf; split <;> rfl
@[simp] theorem finishIf_key1 (b : Bool) (s : State) : (finishIf b s).key1 = s.key1 := by
  unfold finishIf; split <;> rfl
@[simp] theorem finishIf_din0 (b : Bool) (s : State) : (finishIf b s).din0 = s.din0 := by
  unfold finishIf; split <;> rfl
@[simp] theorem finishIf_din1 (b : Bool) (s : State) : (finishIf b s).din1 = s.din1 := by
  unfold finishIf; split <;> rfl
@[simp] theorem finishIf_dout0 (b : Bool) (s : State) : (finishIf b s).dout0 = s.dout0 := by
  unfold finishIf; split <;> rfl
@[simp] theorem finishIf_dout1 (b : Bool) (s : State) : (finishIf b s).dout1 = s.dout1 := by
  unfold finishIf; split <;> rfl
@[simp] theorem finishIf_dout2 (b : Bool) (s : State) : (finishIf b s).dout2 = s.dout2 := by
  unfold finishIf; split <;> rfl
@[simp] theorem finishIf_dout3 (b : Bool) (s : State) : (finishIf b s).dout3 = s.dout3 := by
  unfold finishIf; split <;> rfl
@[simp] theorem finishIf_cv0 (b : Bool) (s : State) : (finishIf b s).cv0 = s.cv0 := by
  unfold finishIf; split <;> rfl
@[simp] theorem finishIf_cv1 (b : Bool) (s : State) : (finishIf b s).cv1 = s.cv1 := by
  unfold finishIf; split <;> rfl
@[simp] theorem finishIf_eseed0 (b : Bool) (s : State) : (finishIf b s).eseed0 = s.eseed0 := by
  unfold finishIf; split <;> rfl
@[simp] theorem finishIf_eseed1 (b : Bool) (s : State) : (finishIf b s).eseed1 = s.eseed1 := by
  unfold finishIf; split <;> rfl
@[simp] theorem finishIf_sk (b : Bool) (s : State) : (finishIf b s).sk = s.sk := by
  unfold finishIf; split <;> rfl
@[simp] theorem finishIf_todo (b : Bool) (s : State) : (finishIf b s).todo = s.todo := by
  unfold finishIf; split <;> rfl
@[simp] theorem finishIf_reads (b : Bool) (s : State) : (finishIf b s).reads = s.reads := by
  unfold finishIf; split <;> rfl
@[simp] theorem finishIf_wait (b : Bool) (s : State) : (finishIf b s).wait = s.wait := by
  unfold finishIf; split <;> rfl
@[simp] theorem finishIf_draws (b : Bool) (s : State) : (finishIf b s).draws = s.draws := by
  unfold finishIf; split <;> rfl
@[simp] theorem finishIf_inReset (b : Bool) (s : State) : (finishIf b s).inReset = s.inReset := by
  unfold finishIf; split <;> rfl

theorem consumeEntropy_draws (s : State) : (consumeEntropy s).draws = if s.esrc then s.draws else s.draws + 1 := by
  unfold consumeEntropy; split <;> rfl

theorem finishIf_fsm (b : Bool) (s : State) : (finishIf b s).fsm = if b then .done else s.fsm := by
  unfold finishIf; split <;> rfl

end Sys2Proof.Machine
end

