-- ==== Sys2Proof/Laws/Ops.lean ====
section
/-! SUPPORT. What each shared operation can do, said once. -/

namespace Sys2Proof.Machine

@[simp] theorem setChain_chainBlock (c : Block) (s : State) : (setChain c s).chainBlock = c := by
  simp [State.chainBlock]

@[simp] theorem writeSchedule_chainBlock (s : State) : (writeSchedule s).chainBlock = s.chainBlock := rfl

@[simp] theorem crypt_congr (T : Tables) (s t : State) (b : Block) (inv : Bool) (h : t.csel = s.csel)
    (h0 : t.key0 = s.key0) (h1 : t.key1 = s.key1) : t.crypt T b inv = s.crypt T b inv := by
  simp [State.crypt, h, h0, h1]

/-- STATUS[0] is BUSY (10_state.md R25). -/
theorem statusLayout_busy (wib : Bool) (o : BitVec 6) (e : BitVec 4) (f : BitVec 3) (b : Bool) :
    (statusLayout wib o e f b).getLsbD 0 = b := by
  simp only [statusLayout, BitVec.getLsbD_setWidth, BitVec.getLsbD_append]
  simp

/-- The bits of STATUS (10_state.md R25). -/
theorem getLsbD_statusLayout (wib : Bool) (o : BitVec 6) (e : BitVec 4) (f : BitVec 3) (b : Bool) (k : Nat) :
    (statusLayout wib o e f b).getLsbD k =
      if k = 0 then b else if k < 4 then f.getLsbD (k - 1) else if k < 8 then e.getLsbD (k - 4)
      else if k < 14 then o.getLsbD (k - 8) else decide (k = 14) && wib := by
  have h4 : k - 1 - 3 = k - 4 := by omega
  have h8 : k - 4 - 4 = k - 8 := by omega
  have h14 : k - 8 - 6 = k - 14 := by omega
  simp only [statusLayout, BitVec.getLsbD_setWidth, BitVec.getLsbD_append, BitVec.getLsbD_ofBool, h4, h8, h14]
  by_cases h0 : k = 0
  · simp [h0]
  have h1 : ¬k < 1 := by omega
  rw [if_neg h1, if_neg h0]
  by_cases hf : k < 4
  · rw [if_pos hf, if_pos (by omega), decide_eq_true (by omega), Bool.true_and]
  rw [if_neg hf, if_neg (by omega)]
  by_cases he : k < 8
  · rw [if_pos he, if_pos (by omega), decide_eq_true (by omega), Bool.true_and]
  rw [if_neg he, if_neg (by omega)]
  by_cases ho : k < 14
  · rw [if_pos ho, if_pos (by omega), decide_eq_true (by omega), Bool.true_and]
  rw [if_neg ho, if_neg (by omega)]
  by_cases h : k = 14
  · simp [h]
  · rw [decide_eq_false h, decide_eq_false (p := k - 14 = 0) (by omega), Bool.false_and, Bool.and_false]

/-- The fields of STATUS at their bits (10_state.md R25). -/
theorem statusLayout_fields (wib : Bool) (o : BitVec 6) (e : BitVec 4) (f : BitVec 3) (b : Bool) :
    (statusLayout wib o e f b).extractLsb' 1 3 = f ∧ (statusLayout wib o e f b).extractLsb' 4 4 = e ∧
    (statusLayout wib o e f b).extractLsb' 8 6 = o := by
  refine ⟨?_, ?_, ?_⟩ <;> apply BitVec.eq_of_getLsbD_eq <;> intro k hk <;>
    simp only [BitVec.getLsbD_extractLsb', getLsbD_statusLayout, hk, decide_true, Bool.true_and]
  · rw [if_neg (by omega), if_pos (by omega)]; congr 1; omega
  · rw [if_neg (by omega), if_neg (by omega), if_pos (by omega)]; congr 1; omega
  · rw [if_neg (by omega), if_neg (by omega), if_neg (by omega), if_pos (by omega)]; congr 1; omega

/-- The index of a register names it (10_state.md R21). -/
@[simp] theorem ofIndex_index (r : Reg) : Reg.ofIndex r.index = r := by
  cases r with
  | sk i => revert i; decide
  | _ => rfl

/-- A host write while BUSY = 0 is the write of the register (20_memory.md R64). -/
theorem hostWrite_idle {s : State} (h : s.pending = none) (r : Reg) (v : Word) :
    hostWrite r.index v s = writeReg r v s := by
  simp [hostWrite, State.busy, h]

/-- In ERROR nothing happens; elsewhere the effect does (60_exceptions.md R238). -/
theorem unlessError_cases (f : State → State) (s : State) :
    (s.fsm = .error ∧ unlessError f s = s) ∨ (s.fsm ≠ .error ∧ unlessError f s = f s) := by
  by_cases h : s.fsm = .error
  · exact .inl ⟨h, by simp [unlessError, h]⟩
  · exact .inr ⟨h, by simp [unlessError, h]⟩

@[simp] theorem unlessError_of_error {f : State → State} {s : State} (h : s.fsm = .error) : unlessError f s = s := by
  simp [unlessError, h]

@[simp] theorem unlessError_of_live {f : State → State} {s : State} (h : s.fsm ≠ .error) : unlessError f s = f s := by
  simp [unlessError, h]

@[simp] theorem encipherLink_chainBlock (T : Tables) (p : Block) (s : State) :
    (encipherLink T p s).chainBlock = s.crypt T (p ^^^ s.chainBlock) false := by
  simp [encipherLink]

/-- Every error a FEISTEL enters is BAD_ROUNDS, before anything is written (40_feistel.md R105). -/
theorem feistelEffect_cases (T : Tables) (inv : Bool) (nr : Nat) (v : Word) (s : State) :
    (16 < nr ∧ feistelEffect T inv nr v s = errorEntry .badRounds v s) ∨
    (nr ≤ 16 ∧ feistelEffect T inv nr v s =
      setOutput (feistelBlock (roundFn T s.csel) (s.subkeys nr) s.inputBlock inv) 0 16 s) := by
  by_cases h : nr > 16
  · exact .inl ⟨h, by simp [feistelEffect, maxNr, h]⟩
  · exact .inr ⟨by omega, by simp [feistelEffect, maxNr, h]⟩

theorem canStart_iff (f : Fsm) : canStart f = true ↔ f = .idle ∨ f = .done := by
  cases f <;> simp [canStart]

/-- ENC_START: BAD_STATE outside IDLE and DONE, else the opened stream (43_cbc_mode.md R180). -/
theorem encStartEffect_cases (T : Tables) (v : Word) (s : State) :
    (¬(s.fsm = .idle ∨ s.fsm = .done) ∧ encStartEffect T v s = errorEntry .badState v s) ∨
    ((s.fsm = .idle ∨ s.fsm = .done) ∧ ∃ c : Block,
      c = s.crypt T (blk (entropyWords s).1 (entropyWords s).2) false ∧
      encStartEffect T v s = setFsm .enc (setOutput c 0 16 (setChain c (writeSchedule (consumeEntropy s))))) := by
  by_cases h : s.fsm = .idle ∨ s.fsm = .done
  · exact .inr ⟨h, _, rfl, by simp [encStartEffect, (canStart_iff _).2 h]⟩
  · have : canStart s.fsm = false := by
      rw [Bool.eq_false_iff]
      exact fun hc => h ((canStart_iff _).1 hc)
    exact .inl ⟨h, by simp [encStartEffect, this]⟩

/-- ENC_DATA once its checks have passed: one block, whole or padded; a whole last block and the pad block; or the
boundary end without a pad (43_cbc_mode.md R186). -/
theorem encDataBody_cases (T : Tables) (n : Nat) (last : Bool) (s : State) :
    (∃ p s1, p = (if n = 16 then s.inputBlock else pad s.inputBlock n) ∧ s1 = encipherLink T p s ∧
      encDataBody T n last s = setOutput s1.chainBlock 0 16 s1) ∨
    (n = 16 ∧ last = true ∧ s.apad = true ∧
      ∃ s1 s2, s1 = encipherLink T s.inputBlock s ∧ s2 = encipherLink T (pad s.inputBlock 0) s1 ∧
        encDataBody T n last s = setOutput s1.chainBlock s2.chainBlock 32 s2) ∨
    (n = 0 ∧ s.apad = false ∧ encDataBody T n last s = setOutput 0 0 0 s) := by
  unfold encDataBody
  by_cases h16 : n = 16
  · by_cases hl : last = true ∧ s.apad = true
    · exact .inr (.inl ⟨h16, hl.1, hl.2, _, _, rfl, rfl, by simp [h16, hl]⟩)
    · exact .inl ⟨_, _, rfl, rfl, by simp [h16, hl]⟩
  · by_cases h1 : 1 ≤ n
    · exact .inl ⟨_, _, rfl, rfl, by simp [h16, h1]⟩
    · obtain rfl : n = 0 := by omega
      by_cases ha : s.apad = true
      · exact .inl ⟨_, _, rfl, rfl, by simp [ha]⟩
      · exact .inr (.inr ⟨rfl, by simpa using ha, by simp [ha]⟩)

/-- ENC_DATA: an error entry before anything is written, or the body and the end of the stream (43_cbc_mode.md R186). -/
theorem encDataEffect_cases (T : Tables) (n : Nat) (last : Bool) (v : Word) (s : State) :
    (s.fsm ≠ .enc ∧ encDataEffect T n last v s = errorEntry .badState v s) ∨
    (s.fsm = .enc ∧ (16 < n ∨ (n < 16 ∧ last = false)) ∧ encDataEffect T n last v s = errorEntry .badLength v s) ∨
    (s.fsm = .enc ∧ n ≤ 16 ∧ (n = 16 ∨ last = true) ∧
      encDataEffect T n last v s = finishIf last (encDataBody T n last s)) := by
  unfold encDataEffect
  by_cases h : s.fsm = .enc
  · by_cases h1 : n > 16
    · exact .inr (.inl ⟨h, .inl h1, by simp [h, h1]⟩)
    · by_cases h2 : n < 16 ∧ last = false
      · exact .inr (.inl ⟨h, .inr h2, by simp [h, h2]⟩)
      · refine .inr (.inr ⟨h, by omega, ?_, by simp [h, h1, h2]⟩)
        by_cases h3 : n = 16
        · exact .inl h3
        · right
          by_contra hl
          exact h2 ⟨by omega, by simpa using hl⟩
  · exact .inl ⟨h, by simp [h]⟩

/-- DEC_START: an error entry before anything is written, or the loaded chaining vector (43_cbc_mode.md R192). -/
theorem decStartEffect_cases (n : Nat) (last : Bool) (v : Word) (s : State) :
    (¬(s.fsm = .idle ∨ s.fsm = .done) ∧ decStartEffect n last v s = errorEntry .badState v s) ∨
    ((s.fsm = .idle ∨ s.fsm = .done) ∧ 16 < n ∧ decStartEffect n last v s = errorEntry .badLength v s) ∨
    ((s.fsm = .idle ∨ s.fsm = .done) ∧ n < 16 ∧ decStartEffect n last v s = errorEntry .unexpectedEnd v s) ∨
    ((s.fsm = .idle ∨ s.fsm = .done) ∧ n = 16 ∧ decStartEffect n last v s =
      setFsm (if last then .done else .dec) (setOutput 0 0 0 (setChain s.inputBlock s))) := by
  unfold decStartEffect
  by_cases h : s.fsm = .idle ∨ s.fsm = .done
  · have hc := (canStart_iff _).2 h
    by_cases h1 : n > 16
    · exact .inr (.inl ⟨h, h1, by simp [hc, h1]⟩)
    · by_cases h2 : n < 16
      · exact .inr (.inr (.inl ⟨h, h2, by simp [hc, h1, h2]⟩))
      · exact .inr (.inr (.inr ⟨h, by omega, by simp [hc, h1, h2]⟩))
  · have : canStart s.fsm = false := by
      rw [Bool.eq_false_iff]
      exact fun hc => h ((canStart_iff _).1 hc)
    exact .inl ⟨h, by simp [this]⟩

/-- DEC_DATA: an error entry before anything is written, the boundary end, or one block (43_cbc_mode.md R196). -/
theorem decDataEffect_cases (T : Tables) (n : Nat) (last : Bool) (v : Word) (s : State) :
    (s.fsm ≠ .dec ∧ decDataEffect T n last v s = errorEntry .badState v s) ∨
    (s.fsm = .dec ∧ (16 < n ∨ (1 ≤ n ∧ n ≤ 15) ∨ (n = 0 ∧ last = false)) ∧
      decDataEffect T n last v s = errorEntry .badLength v s) ∨
    (s.fsm = .dec ∧ n = 0 ∧ last = true ∧ decDataEffect T n last v s = setFsm .done (setOutput 0 0 0 s)) ∨
    (s.fsm = .dec ∧ n = 16 ∧ decDataEffect T n last v s = finishIf last (decDataBody T last s)) := by
  unfold decDataEffect
  by_cases h : s.fsm = .dec
  · by_cases h1 : n > 16
    · exact .inr (.inl ⟨h, .inl h1, by simp [h, h1]⟩)
    · by_cases h2 : 1 ≤ n ∧ n ≤ 15
      · exact .inr (.inl ⟨h, .inr (.inl h2), by simp [h, h1, h2]⟩)
      · by_cases h3 : n = 0 ∧ last = false
        · exact .inr (.inl ⟨h, .inr (.inr h3), by simp [h, h3]⟩)
        · by_cases h4 : n = 0
          · have hl : last = true := by
              by_contra hl
              exact h3 ⟨h4, by simpa using hl⟩
            exact .inr (.inr (.inl ⟨h, h4, hl, by simp [h, h4, hl]⟩))
          · have h5 : n = 16 := by omega
            exact .inr (.inr (.inr ⟨h, h5, by simp [h, h5]⟩))
  · exact .inl ⟨h, by simp [h]⟩

/-- Every command answers a next state, in every state (60_exceptions.md R233, R236). -/
theorem exec_next (i : Instr) (s : State) : ∃ t, exec i s = .next t := by
  cases i <;> exact ⟨_, rfl⟩

/-- Whose turn it is (70_reset_and_hazards.md R270). -/
theorem turn_cases (s : State) :
    (turn s = .idle ∧ s.todo = [] ∧ (s.pending = none ∨ s.inReset = true)) ∨
    (∃ v, turn s = .engine v ∧ s.pending = some v ∧ s.inReset = false ∧ (s.todo = [] ∨ s.wait = 0)) ∨
    (∃ a rest, turn s = .outside a rest ∧ s.todo = a :: rest ∧
      (s.pending = none ∨ s.inReset = true ∨ s.wait ≠ 0)) := by
  unfold turn
  cases ht : s.todo with
  | nil =>
    cases hp : s.pending with
    | none => exact .inl ⟨rfl, rfl, .inl rfl⟩
    | some v =>
      by_cases hr : s.inReset = true
      · exact .inl ⟨by simp [hr], rfl, .inr hr⟩
      · exact .inr (.inl ⟨v, by simp [hr], rfl, by simpa using hr, .inl rfl⟩)
  | cons a rest =>
    cases hp : s.pending with
    | none => exact .inr (.inr ⟨a, rest, rfl, rfl, .inl rfl⟩)
    | some v =>
      by_cases h : s.inReset = false ∧ s.wait = 0
      · exact .inr (.inl ⟨v, by simp [h], rfl, h.1, .inr h.2⟩)
      · refine .inr (.inr ⟨a, rest, by simp [h], rfl, ?_⟩)
        by_cases hr : s.inReset = true
        · exact .inr (.inl hr)
        · exact .inr (.inr fun hw => h ⟨by simpa using hr, hw⟩)

/-- What a command word does before completion (30_encoding.md R85). -/
theorem runWord_cases (v : Word) (s : State) :
    (∃ i, decode v = .ok i ∧ runWord v s = exec i s) ∨
    (∃ e, decode v = .error e ∧ runWord v s = .next (unlessError (errorEntry .illegalCmd v) s)) := by
  unfold runWord
  cases h : decode v with
  | ok i => exact .inl ⟨i, rfl, rfl⟩
  | error e => exact .inr ⟨e, rfl, rfl⟩

/-- The engine's step answers a next state: the word's rule, completed (30_encoding.md R85). -/
theorem engineStep_next (v : Word) (s : State) :
    ∃ t, runWord v s = .next t ∧ engineStep v s = .next (complete t) := by
  rcases runWord_cases v s with ⟨i, -, h⟩ | ⟨e, -, h⟩
  · obtain ⟨t, ht⟩ := exec_next i s
    exact ⟨t, h.trans ht, by simp [engineStep, h, ht, completeOutcome]⟩
  · exact ⟨_, h, by simp [engineStep, h, completeOutcome]⟩

end Sys2Proof.Machine
end

