-- ==== Sys2Proof/Laws/Exec.lean ====
section
/-! SUPPORT. What a command can do, said once: nothing, CLEAR, an error entry, or its success. -/

namespace Sys2Proof.Machine

/-- In ERROR every command but CLEAR leaves the state as it is (60_exceptions.md R238). -/
theorem exec_error {i : Instr} {s : State} (h : s.fsm = .error) (hi : i ≠ .clear) : exec i s = .next s := by
  cases i <;> first
    | exact absurd rfl hi
    | simp [exec, execKsched, execFeistel, execCipher, execRound, execEncStart, execEncData, execDecStart,
        execDecData, execAbortSrc, execAbortSnk, h]

/-- The success of a command other than CLEAR: the state it started from and the one it leaves. -/
inductive Succeeds : Instr → State → State → Prop
  | ksched {s} : Succeeds .ksched s (kschedEffect s)
  | feistel {s inv nr} (h : nr ≤ 16) : Succeeds (.feistel inv nr) s
      (setOutput (feistelBlock (roundFn Config.tables s.csel) (s.subkeys nr) s.inputBlock inv) 0 16 s)
  | cipher {s inv} : Succeeds (.cipher inv) s (cipherEffect Config.tables inv s)
  | round {s} : Succeeds .round s (roundEffect Config.tables s)
  | encStart {s} (h : s.fsm = .idle ∨ s.fsm = .done) (c : Block)
      (hc : c = s.crypt Config.tables (blk (entropyWords s).1 (entropyWords s).2) false) :
      Succeeds .encStart s (setFsm .enc (setOutput c 0 16 (setChain c (writeSchedule (consumeEntropy s)))))
  | encOne {s n last} (h : s.fsm = .enc) (hn : n ≤ 16) (hl : n = 16 ∨ last = true) (p : Block)
      (hp : p = if n = 16 then s.inputBlock else pad s.inputBlock n) :
      Succeeds (.encData n last) s (finishIf last
        (setOutput (encipherLink Config.tables p s).chainBlock 0 16 (encipherLink Config.tables p s)))
  | encTwo {s} (h : s.fsm = .enc) (ha : s.apad = true) (s1 s2 : State)
      (h1 : s1 = encipherLink Config.tables s.inputBlock s)
      (h2 : s2 = encipherLink Config.tables (pad s.inputBlock 0) s1) :
      Succeeds (.encData 16 true) s (finishIf true (setOutput s1.chainBlock s2.chainBlock 32 s2))
  | encNone {s last} (h : s.fsm = .enc) (hl : last = true) (ha : s.apad = false) :
      Succeeds (.encData 0 last) s (finishIf last (setOutput 0 0 0 s))
  | decStart {s last} (h : s.fsm = .idle ∨ s.fsm = .done) : Succeeds (.decStart 16 last) s
      (setFsm (if last then .done else .dec) (setOutput 0 0 0 (setChain s.inputBlock s)))
  | decNone {s} (h : s.fsm = .dec) : Succeeds (.decData 0 true) s (setFsm .done (setOutput 0 0 0 s))
  | decOne {s last} (h : s.fsm = .dec) :
      Succeeds (.decData 16 last) s (finishIf last (decDataBody Config.tables last s))

/-- What a command that answers a next state did: nothing in ERROR, CLEAR, an error entry, or its success. -/
theorem exec_cases {i s t} (h : exec i s = .next t) :
    (s.fsm = .error ∧ i ≠ .clear ∧ t = s) ∨ (i = .clear ∧ t = leaveError s) ∨
    (s.fsm ≠ .error ∧ ∃ x, errorOf i s.fsm = some x ∧ t = errorEntry x (encode i) s) ∨
    (s.fsm ≠ .error ∧ i ≠ .clear ∧ errorOf i s.fsm = none ∧ Succeeds i s t) := by
  by_cases hc : i = .clear
  · subst hc; injection h with h; exact .inr (.inl ⟨rfl, h.symm⟩)
  by_cases he : s.fsm = .error
  · rw [exec_error he hc] at h; injection h with h; exact .inl ⟨he, hc, h.symm⟩
  right; right
  cases i with
  | clear => exact absurd rfl hc
  | ksched => injection h with h; rw [unlessError_of_live he] at h; subst h; exact .inr ⟨he, hc, rfl, .ksched⟩
  | feistel inv nr =>
    injection h with h; rw [unlessError_of_live he] at h; subst h
    rcases feistelEffect_cases Config.tables inv nr (encode (.feistel inv nr)) s with ⟨hn, h⟩ | ⟨hn, h⟩ <;> rw [h]
    · exact .inl ⟨he, _, by simp [errorOf]; omega, rfl⟩
    · exact .inr ⟨he, hc, by simp [errorOf]; omega, .feistel hn⟩
  | cipher inv => injection h with h; rw [unlessError_of_live he] at h; subst h; exact .inr ⟨he, hc, rfl, .cipher⟩
  | round => injection h with h; rw [unlessError_of_live he] at h; subst h; exact .inr ⟨he, hc, rfl, .round⟩
  | encStart =>
    injection h with h; rw [unlessError_of_live he] at h; subst h
    rcases encStartEffect_cases Config.tables (encode .encStart) s with ⟨hn, h⟩ | ⟨hn, c, hcc, h⟩ <;> rw [h]
    · exact .inl ⟨he, _, by simp [errorOf, hn], rfl⟩
    · exact .inr ⟨he, hc, by simp [errorOf, hn], .encStart hn c hcc⟩
  | encData n last =>
    injection h with h; rw [unlessError_of_live he] at h; subst h
    rcases encDataEffect_cases Config.tables n last (encode (.encData n last)) s with ⟨hn, h⟩ | ⟨hf, hn, h⟩ | ⟨hf, hn, hl, h⟩ <;> rw [h]
    · exact .inl ⟨he, _, by simp [errorOf, hn], rfl⟩
    · refine .inl ⟨he, .badLength, ?_, rfl⟩
      simp only [errorOf, hf]; rcases hn with hn | ⟨h1, h2⟩
      · simp [show 17 ≤ n by omega]
      · simp [h1, h2]
    · refine .inr ⟨he, hc, ?_, ?_⟩
      · have : ¬ 17 ≤ n := by omega
        rcases hl with hl | hl <;> simp [errorOf, hf, hl, this]
      · rcases encDataBody_cases Config.tables n last s with ⟨p, s1, hp, h1, h⟩ | ⟨h16, hlast, ha, s1, s2, h1, h2, h⟩ | ⟨h0, ha, h⟩ <;> rw [h]
        · subst h1; exact .encOne hf hn hl p hp
        · subst h16 hlast; exact .encTwo hf ha s1 s2 h1 h2
        · subst h0; exact .encNone hf (by simpa using hl) ha
  | decStart n last =>
    injection h with h; rw [unlessError_of_live he] at h; subst h
    rcases decStartEffect_cases n last (encode (.decStart n last)) s with ⟨hn, h⟩ | ⟨hf, hn, h⟩ | ⟨hf, hn, h⟩ | ⟨hf, hn, h⟩ <;> rw [h]
    · exact .inl ⟨he, _, by simp [errorOf]; tauto, rfl⟩
    · exact .inl ⟨he, .badLength, by simp only [errorOf, hf, not_true, if_false]; rw [if_pos (by omega)], rfl⟩
    · exact .inl ⟨he, .unexpectedEnd, by simp only [errorOf, hf, not_true, if_false]; rw [if_neg (by omega), if_pos (by omega)], rfl⟩
    · subst hn; exact .inr ⟨he, hc, by simp [errorOf, hf], .decStart hf⟩
  | decData n last =>
    injection h with h; rw [unlessError_of_live he] at h; subst h
    rcases decDataEffect_cases Config.tables n last (encode (.decData n last)) s with ⟨hn, h⟩ | ⟨hf, hn, h⟩ | ⟨hf, hn, hl, h⟩ | ⟨hf, hn, h⟩ <;> rw [h]
    · exact .inl ⟨he, _, by simp [errorOf, hn], rfl⟩
    · refine .inl ⟨he, .badLength, ?_, rfl⟩
      simp only [errorOf, hf]; rcases hn with hn | ⟨h1, h2⟩ | ⟨h1, h2⟩
      · simp [show 17 ≤ n by omega]
      · simp [h1, h2]
      · simp [h1, h2]
    · subst hn hl; exact .inr ⟨he, hc, by simp [errorOf, hf], .decNone hf⟩
    · subst hn; exact .inr ⟨he, hc, by simp [errorOf, hf], .decOne hf⟩
  | abortSrc => injection h with h; rw [unlessError_of_live he] at h; subst h; exact .inl ⟨he, _, rfl, rfl⟩
  | abortSnk => injection h with h; rw [unlessError_of_live he] at h; subst h; exact .inl ⟨he, _, rfl, rfl⟩

end Sys2Proof.Machine
end

