-- ==== Sys2Proof/Laws/Functions.lean ====
section
/-! SUPPORT. The small laws of the key schedules, the Feistel loop, padding and pad stripping. -/

namespace Sys2Proof.Machine

/-- Subkey i of LapSchedule (41_round_functions.md R122). -/
theorem lapSchedule_getElem (k0 k1 : Word) (i : Nat) (h : i < 16) :
    (lapSchedule k0 k1)[i] = (if i % 2 = 0 then k0 else k1) ^^^ rotl (if i % 2 = 0 then k0 else k1) i := by
  simp [lapSchedule]

/-- Subkey i of MisSchedule (41_round_functions.md R126). -/
theorem misSchedule_getElem (k0 k1 : Word) (i : Nat) (h : i < 16) :
    (misSchedule k0 k1)[i] =
      rotl (if i % 2 = 0 then k0 else k1) i ^^^ rotr (if i % 2 = 0 then k1 else k0) i := by
  simp [misSchedule]

/-- LapRound's accumulator after one more byte (41_round_functions.md R120). -/
theorem lapLoop_succ (sbox : Byte → Byte) (half : Word) (j : Nat) :
    lapLoop sbox half (j + 1) = lapStep sbox half (lapLoop sbox half j) j := by
  simp [lapLoop, List.range_succ]

/-- MisRound's substitution works byte by byte (41_round_functions.md R125). -/
theorem byte_misSubst (sbox : Byte → Byte) (half : Word) {j : Nat} (hj : j < 8) :
    byte (misSubst sbox half) j = sbox (byte half j) :=
  byte_ofBytes _ hj (by omega)

/-- The Feistel loop as a fold over the subkeys in the order they are used (40_feistel.md R100). -/
theorem feistelRounds_eq_foldl {n : Nat} (F : BitVec n → BitVec n → BitVec n) (ks : List (BitVec n))
    (lr : BitVec n × BitVec n) :
    feistelRounds F ks lr = ks.foldl (fun lr k => (lr.2, F lr.2 k ^^^ lr.1)) lr := by
  induction ks generalizing lr with
  | nil => rfl
  | cons k ks ih => simp [feistelRounds, ih]

theorem feistelRounds_append {n : Nat} (F : BitVec n → BitVec n → BitVec n) (a b : List (BitVec n))
    (lr : BitVec n × BitVec n) :
    feistelRounds F (a ++ b) lr = feistelRounds F b (feistelRounds F a lr) := by
  simp [feistelRounds_eq_foldl]

/-- Whitening is its own inverse (42_cipher_adapter.md R152). -/
theorem whiten_whiten (b : Block) (k0 k1 : Word) : whiten (whiten b k0 k1) k0 k1 = b := by
  apply block_ext <;> simp [whiten]

/-- The bytes of a padded block (43_cbc_mode.md R176). -/
theorem byte_pad (p : Block) (n : Nat) {i : Nat} (hi : i < 16) :
    byte (pad p n) i = if i < n then byte p i else BitVec.ofNat 8 (16 - n) :=
  byte_ofBytes _ hi (by omega)

/-- At most the whole block is stripped (43_cbc_mode.md R177). -/
theorem stripLen_le (b : Block) : stripLen b ≤ 16 := by
  unfold stripLen
  dsimp only
  split
  · next h =>
    have h' : (1 ≤ (byte b 15).toNat ∧ (byte b 15).toNat ≤ 16) := by
      simp only [padValid, Bool.and_eq_true, decide_eq_true_eq] at h
      exact h.1
    exact h'.2
  · omega

end Sys2Proof.Machine
end

