-- ==== Sys2Proof/Laws/PerInstr.lean ====
section
/-! SUPPORT. Statements for all instructions, made per instruction. -/

namespace Sys2Proof

/-- The opcode of an instruction (30_encoding.md R83). -/
def Laws.opcodeOf (i : Instr) : Opcode :=
  match i with
  | .ksched => .ksched
  | .feistel _ _ => .feistel
  | .cipher _ => .cipher
  | .round => .round
  | .encStart => .encStart
  | .encData _ _ => .encData
  | .decStart _ _ => .decStart
  | .decData _ _ => .decData
  | .abortSrc => .abortSrc
  | .abortSnk => .abortSnk
  | .clear => .clear

end Sys2Proof

namespace Sys2Proof.Laws.EncodesWellFormed

/-- The word of an instruction passes the mask and match test of its own opcode (30_encoding.md R83, R84). -/
abbrev Statement (i : Instr) : Prop := encode i &&& (opcodeOf i).mask = (opcodeOf i).pattern

theorem ksched : Statement .ksched := by decide

theorem feistel (inv : Bool) (nr : Nat) : Statement (.feistel inv nr) := by
  simp only [Statement, encode, encodeFields, opcodeOf]
  generalize BitVec.ofNat 5 nr = x
  revert inv x
  decide

theorem cipher (inv : Bool) : Statement (.cipher inv) := by
  revert inv
  decide

theorem round : Statement .round := by decide

theorem encStart : Statement .encStart := by decide

theorem encData (len : Nat) (last : Bool) : Statement (.encData len last) := by
  simp only [Statement, encode, encodeFields, opcodeOf]
  generalize BitVec.ofNat 5 len = x
  revert last x
  decide

theorem decStart (len : Nat) (last : Bool) : Statement (.decStart len last) := by
  simp only [Statement, encode, encodeFields, opcodeOf]
  generalize BitVec.ofNat 5 len = x
  revert last x
  decide

theorem decData (len : Nat) (last : Bool) : Statement (.decData len last) := by
  simp only [Statement, encode, encodeFields, opcodeOf]
  generalize BitVec.ofNat 5 len = x
  revert last x
  decide

theorem abortSrc : Statement .abortSrc := by decide

theorem abortSnk : Statement .abortSnk := by decide

theorem clear : Statement .clear := by decide

end Sys2Proof.Laws.EncodesWellFormed
end

