-- ==== Sys2Proof/Laws/Step.lean ====
section
/-! SUPPORT. What one step and a run can do, said once. -/

namespace Sys2Proof.Machine

theorem hostStep_live {a : HostAction} {s : State} (h : s.inReset = false) : hostStep a s = actionLive a s := by
  simp [hostStep, h]

theorem hostStep_inReset {a : HostAction} {s : State} (h : s.inReset = true) : hostStep a s = actionInReset a s := by
  simp [hostStep, h]

/-- A bus access is a port access or refused (20_memory.md R62, R63). -/
theorem busAccess_cases (b : BusAccess) (s : State) :
    (∃ x, portAccessOf b = .ok x ∧ busAccess b s = .next (portAccess x s) ∧ busAccessInReset b s = .next (holdReset s)) ∨
    ∃ r, portAccessOf b = .error r ∧ busAccess b s = .refused r ∧ busAccessInReset b s = .refused r := by
  cases h : portAccessOf b with
  | ok x => exact .inl ⟨x, rfl, by simp [busAccess, h], by simp [busAccessInReset, h]⟩
  | error r => exact .inr ⟨r, rfl, by simp [busAccess, h], by simp [busAccessInReset, h]⟩

/-- A bus access the port has not is refused, whether or not reset is asserted (20_memory.md R63; log 19). -/
theorem hostStep_bus_refused {b : BusAccess} {r : Refusal} (h : portAccessOf b = .error r) (s : State) :
    hostStep (.bus b) s = .refused r := by
  cases hr : s.inReset with
  | false => rw [hostStep_live hr]; simp [actionLive, busAccess, h]
  | true => rw [hostStep_inReset hr]; simp [actionInReset, busAccessInReset, h]

/-- A bus access the port has is that port access, whether or not reset is asserted (20_memory.md R62). -/
theorem hostStep_bus_access {b : BusAccess} {x : Access} (h : portAccessOf b = .ok x) (s : State) :
    hostStep (.bus b) s = hostStep (.access x) s := by
  cases hr : s.inReset with
  | false => rw [hostStep_live hr, hostStep_live hr]; simp [actionLive, busAccess, h]
  | true => rw [hostStep_inReset hr, hostStep_inReset hr]; simp [actionInReset, busAccessInReset, h]

/-- What an action of the outside world that answers a next state does: a reset, a port access, a turn of a POLL, or
nothing (00_scope.md R11). -/
theorem hostStep_cases {a : HostAction} {s t : State} (h : hostStep a s = .next t) :
    (s.inReset = true ∧ (t = holdReset s ∨ (a = .resetRelease ∧ t = releaseReset s))) ∨
    (s.inReset = false ∧ a = .resetAssert ∧ t = holdReset s) ∨
    (s.inReset = false ∧ ∃ x, t = portAccess x s) ∨
    (s.inReset = false ∧ a = .poll ∧ t = pollTurn s) ∨
    (s.inReset = false ∧ a = .resetRelease ∧ t = s) := by
  by_cases hr : s.inReset = true
  · rw [hostStep_inReset hr] at h
    refine .inl ⟨hr, ?_⟩
    cases a with
    | access x => injection h with h; exact .inl h.symm
    | poll => injection h with h; exact .inl h.symm
    | bus b =>
      rcases busAccess_cases b s with ⟨x, -, -, hx⟩ | ⟨r, -, -, hx⟩ <;> simp only [actionInReset, hx] at h
      · injection h with h; exact .inl h.symm
      · cases h
    | resetAssert => injection h with h; exact .inl h.symm
    | resetRelease => injection h with h; exact .inr ⟨rfl, h.symm⟩
  · have hr : s.inReset = false := by simpa using hr
    rw [hostStep_live hr] at h
    cases a with
    | access x => injection h with h; exact .inr (.inr (.inl ⟨hr, x, h.symm⟩))
    | poll => injection h with h; exact .inr (.inr (.inr (.inl ⟨hr, rfl, h.symm⟩)))
    | bus b =>
      rcases busAccess_cases b s with ⟨x, -, hx, -⟩ | ⟨r, -, hx, -⟩ <;> simp only [actionLive, hx] at h
      · injection h with h; exact .inr (.inr (.inl ⟨hr, x, h.symm⟩))
      · cases h
    | resetAssert => injection h with h; exact .inr (.inl ⟨hr, rfl, h.symm⟩)
    | resetRelease => injection h with h; exact .inr (.inr (.inr (.inr ⟨hr, rfl, h.symm⟩)))

/-- What a port access does: a read of the host, a write that sets WIB, or a write of a register (20_memory.md R64). -/
theorem portAccess_cases (x : Access) (s : State) :
    (∃ idx, portAccess x s = hostRead idx s) ∨
    (s.busy = true ∧ portAccess x s = { s with wib := true }) ∨
    (s.busy = false ∧ ∃ r v, portAccess x s = writeReg r v s) := by
  cases x with
  | read idx => exact .inl ⟨idx, rfl⟩
  | write idx v =>
    by_cases h : s.busy = true
    · exact .inr (.inl ⟨h, by simp [portAccess, hostWrite, h]⟩)
    · exact .inr (.inr ⟨by simpa using h, _, _, by simp [portAccess, hostWrite, h]; rfl⟩)

/-- What a turn of a POLL does: the read of STATUS, and the POLL again while BUSY (30_encoding.md R89). -/
theorem pollTurn_cases (s : State) :
    (s.busy = true ∧ pollTurn s =
      { hostRead Reg.status.index s with todo := .poll :: s.todo }) ∨
    (s.busy = false ∧ pollTurn s = hostRead Reg.status.index s) := by
  have hbit : (readValue s .status).getLsbD 0 = s.busy := by
    by_cases h : s.busy = true
    · simp only [readValue, h, if_true, State.busyStatusWord, statusLayout_busy]
    · rw [show readValue s .status = s.statusWord by rw [readValue, if_neg h]; rfl]
      exact statusLayout_busy _ _ _ _ _
  unfold pollTurn
  simp only [hbit]
  by_cases h : s.busy = true
  · exact .inl ⟨h, by rw [if_pos h]; rfl⟩
  · exact .inr ⟨by simpa using h, by rw [if_neg h]⟩

/-- What one step that answers a next state does. -/
theorem step_cases {s t : State} (h : step s = .next t) :
    t = s ∨
    (∃ v u, s.pending = some v ∧ s.inReset = false ∧ runWord v s = .next u ∧ t = complete u) ∨
    (∃ a rest, s.todo = a :: rest ∧ (s.pending = none ∨ s.inReset = true ∨ s.wait ≠ 0) ∧
      hostStep a { s with todo := rest, wait := s.wait - 1 } = .next t) := by
  rcases turn_cases s with ⟨hc, -, -⟩ | ⟨v, hc, hp, hr, -⟩ | ⟨a, rest, hc, ht, hw⟩ <;> simp only [step, hc] at h
  · injection h with h
    exact .inl h.symm
  · obtain ⟨u, hu, he⟩ := engineStep_next v s
    rw [he] at h
    injection h with h
    exact .inr (.inl ⟨v, u, hp, hr, hu, h.symm⟩)
  · exact .inr (.inr ⟨a, rest, ht, hw, h⟩)

theorem run_zero (s : State) : Sys2Proof.core.run 0 s = .next s := rfl

/-- A run goes on after a step that answers a next state. -/
theorem run_succ {k : Nat} {s t : State} (h : step s = .next t) :
    Sys2Proof.core.run (k + 1) s = Sys2Proof.core.run k t := by
  have hs : Sys2Proof.core.step s = .next t := h
  refine (Host.Core.run.eq_2 Sys2Proof.core s k).trans ?_
  rw [hs]

end Sys2Proof.Machine
end

