-- ==== Sys2Proof/Tests/Slice0.lean ====
section
/-! SUPPORT. Tests on fixed values taken from the spec, and a witness for the hypotheses of every statement that has
some. The test tables are SBOX_ID and SBOX_AFF of 95_test_vectors.md §2. -/

namespace Sys2Proof.Tests

open Sys2Proof Sys2Proof.Machine

/-- SBOX_AFF (95_test_vectors.md §2). -/
def affBox (x : Byte) : Byte := 0x1D * x + 0x63

/-- Both tables SBOX_AFF. -/
def aff : Tables := { sboxL := affBox, sboxM := affBox }

/-- KEY0 of "key1" (95_test_vectors.md §3). -/
def key1a : Word := 0x0123456789ABCDEF

/-- KEY1 of "key1". -/
def key1b : Word := 0xFEDCBA9876543210

/-- Reset with CSEL, key1 and DIN = B (95_test_vectors.md §5, §6). -/
def keyed (csel : Bool) : State :=
  { State.reset with csel := csel, key0 := key1a, key1 := key1b, din0 := 0x0706050403020100, din1 := 0x0F0E0D0C0B0A0908 }

/-- Reset in a stream state. -/
def inState (f : Fsm) : State := { State.reset with fsm := f }

/-- A legal error state: ERR = 3, raised by `DEC_START 0` (0x000A), with a chaining vector (95_test_vectors.md §9). -/
def failed : State :=
  { State.reset with fsm := .error, err := .unexpectedEnd, errcmd := 0x000A, cv0 := 5, cv1 := 6 }

/-- FSM, ERR, ERRCMD and OLEN after one step, or nothing if the step stops. -/
def outcome (o : Host.Outcome State Fault Refusal) : Option (Fsm × Err × Word × Fin 33) :=
  match o with
  | .next t => some (t.fsm, t.err, t.errcmd, t.olen)
  | .fault _ => none
  | .refused _ => none

/-! ### WellFormed refuses operands that do not fit their five bits (30_encoding.md R81) -/

theorem test_wellFormed_refuses_nr_32 : (Instr.feistel true 32).wellFormed = false := by decide

theorem test_wellFormed_refuses_encData_len_32 : (Instr.encData 32 true).wellFormed = false := by decide

theorem test_wellFormed_refuses_decStart_len_32 : (Instr.decStart 32 false).wellFormed = false := by decide

theorem test_wellFormed_refuses_decData_len_32 : (Instr.decData 32 true).wellFormed = false := by decide

theorem test_wellFormed_accepts_every_field_value :
    (Instr.feistel true 31).wellFormed = true ∧ (Instr.encData 31 true).wellFormed = true ∧
      (Instr.decStart 31 true).wellFormed = true ∧ (Instr.decData 31 true).wellFormed = true := by decide

/-! ### Decoding: words written out from the fields of 30_encoding.md R81 (nr, last, len, inv, op) -/

theorem test_decode_ksched : decode (0b00000_0_00000_0_0001 : Word) = .ok .ksched := by decide

theorem test_decode_feistel : decode (0b10001_0_00000_1_0010 : Word) = .ok (.feistel true 17) := by decide

theorem test_decode_cipher : decode (0b00000_0_00000_1_0011 : Word) = .ok (.cipher true) := by decide

theorem test_decode_round : decode (0b00000_0_00000_0_0100 : Word) = .ok .round := by decide

theorem test_decode_encStart : decode (0b00000_0_00000_0_1000 : Word) = .ok .encStart := by decide

theorem test_decode_encData : decode (0b00000_1_00101_0_1001 : Word) = .ok (.encData 5 true) := by decide

theorem test_decode_decStart : decode (0b00000_0_10000_0_1010 : Word) = .ok (.decStart 16 false) := by decide

theorem test_decode_decData : decode (0b00000_1_10000_0_1011 : Word) = .ok (.decData 16 true) := by decide

theorem test_decode_abortSrc : decode (0b00000_0_00000_0_1100 : Word) = .ok .abortSrc := by decide

theorem test_decode_abortSnk : decode (0b00000_0_00000_0_1101 : Word) = .ok .abortSnk := by decide

theorem test_decode_clear : decode (0b00000_0_00000_0_1111 : Word) = .ok .clear := by decide

/-- V-ERR-1 to V-ERR-3: the reserved opcodes. -/
theorem test_decode_refuses_reserved_opcodes :
    decode 0x0 = .error .reservedOpcode ∧ decode 0x5 = .error .reservedOpcode ∧ decode 0x6 = .error .reservedOpcode ∧
      decode 0x7 = .error .reservedOpcode ∧ decode 0xE = .error .reservedOpcode := by decide

/-- V-ERR-4, V-ERR-6, V-ERR-7, and bit 63. -/
theorem test_decode_refuses_other_bits :
    decode 0x1F = .error .nonzeroReservedBit ∧ decode 0x10002 = .error .nonzeroReservedBit ∧
      decode 0x22 = .error .nonzeroReservedBit ∧ decode 0x8000000000000001 = .error .nonzeroReservedBit := by decide

/-- A table row of 64 bits and a shorter row read the same word. -/
theorem test_decodeTableWord :
    decodeTableWord 64 0x8802 = some (.feistel false 17) ∧ decodeTableWord 8 0xF = some .clear ∧
      decodeTableWord 64 0x5 = none := by decide

/-! ### Commands on the vectors of 95_test_vectors.md -/

/-- V-KS-5. -/
theorem test_ksched_lappland :
    (kschedEffect (keyed false)).sk[15] = 0xA39081B26F5C4D7E ∧ (kschedEffect (keyed false)).sk[0] = 0 := by decide +kernel

/-- V-KS-6. -/
theorem test_ksched_misaka :
    (kschedEffect (keyed true)).sk[13] = 0xF82B07D0AD7E5285 ∧
      (kschedEffect (keyed true)).sk[6] = 0x0B2A2B080B2A2B08 := by decide +kernel

/-- V-FE-11, FEISTEL.D 2 on B. -/
theorem test_feistel_inverse_two_rounds :
    (feistelEffect aff true 2 0x1012 { keyed false with
      sk := Vector.ofFn fun i => 0x1111111111111111 * BitVec.ofNat 64 (i.val + 1) }).outBlock0 =
      blk 0x2A98BE36DE16516C 0x30B24352AA705080 := by decide +kernel

/-- V-ERR-8, as a step. -/
theorem test_feistel_bad_rounds :
    outcome (step (State.reset.withFetchWord 64 0x8802)) = some (.error, .badRounds, 0x8802, 0) := by decide

/-- V-CI-16, CIPHER.E. -/
theorem test_cipher_misaka :
    (cipherEffect aff false (keyed true)).outBlock0 = blk 0x920090279D02C8BF 0xAF57A417405704B9 := by decide +kernel

/-- V-CI-12, CIPHER.D. -/
theorem test_cipher_lappland_inverse :
    (cipherEffect aff true (keyed false)).outBlock0 = blk 0x77A70020A5A961A1 0x059710EA666378E9 := by decide +kernel

/-- V-RF-11, LapRound: half = 0x8000000000000001, sk = 0. -/
theorem test_round_lappland :
    (roundEffect aff { State.reset with din0 := 0x8000000000000001 }).dout0 = 0x109CB8780F0F50B3 := by decide +kernel

/-- V-RF-10, MisRound. -/
theorem test_round_misaka :
    (roundEffect aff { State.reset with csel := true, din0 := key1a, din1 := 0xFFFFFFFFFFFFFFFF }).dout0 =
      0x829489FB5AE6FABB := by decide +kernel

/-- Reset with ESRC = 1 and the seeds of 95_test_vectors.md §8. -/
def seeded : State := { State.reset with esrc := true, eseed0 := 0x1122334455667788, eseed1 := 0x99AABBCCDDEEFF00 }

/-- V-CBC-1, step 1. -/
theorem test_encStart :
    (encStartEffect aff 0x0008 seeded).outBlock0 = blk 0x48476F17426DF62A 0x62796AC0D4CF6077 ∧
      (encStartEffect aff 0x0008 seeded).fsm = .enc := by decide +kernel

/-- V-ERR-11: ENC_START in ENC. -/
theorem test_encStart_in_stream :
    outcome (step ((inState .enc).withFetchWord 64 0x0008)) = some (.error, .badState, 0x0008, 0) := by decide

/-- V-CBC-1, step 2. -/
theorem test_encData_short_last :
    (encDataEffect aff 5 true 0x04A9 { inState .enc with
      cv0 := 0x48476F17426DF62A, cv1 := 0x62796AC0D4CF6077, din0 := 0x0000006F6C6C6568 }).outBlock0 =
      blk 0x87B3B087AE497C26 0x9C9C8A8912076FF2 := by decide +kernel

/-- V-CBC-3, step 3: the pad block of a full last block. -/
theorem test_encData_pad_block :
    (encDataEffect aff 16 true 0x0609 { inState .enc with
      csel := true, apad := true, key0 := key1a, key1 := key1b
      cv0 := 0x3301BDF6C6C85A3A, cv1 := 0xC25F3775E601F5F4
      din0 := 0x1716151413121110, din1 := 0x1F1E1D1C1B1A1918 }).outBlock1 =
      blk 0xD500896A443448FC 0x9C3D6012FDE05F47 := by decide +kernel

/-- V-CBC-6: DEC_START 16, LAST. -/
theorem test_decStart_last :
    outcome (step ((keyed false).withFetchWord 64 0x060A)) = some (.done, .noError, 0, 0) := by decide

/-- DEC_START 0 (60_exceptions.md R230, code 3). -/
theorem test_decStart_unexpected_end :
    outcome (step (State.reset.withFetchWord 64 0x000A)) = some (.error, .unexpectedEnd, 0x000A, 0) := by decide

/-- V-CBC-1, decrypt step 2: the pad is stripped from the count. -/
theorem test_decData_strips :
    (decDataEffect aff 16 true 0x060B { inState .dec with
      cv0 := 0x48476F17426DF62A, cv1 := 0x62796AC0D4CF6077
      din0 := 0x87B3B087AE497C26, din1 := 0x9C9C8A8912076FF2 }).output = [0x68, 0x65, 0x6C, 0x6C, 0x6F] := by decide +kernel

/-- DEC_DATA 0 with LAST = 0 (43_cbc_mode.md R196). -/
theorem test_decData_zero_not_last :
    outcome (step ((inState .dec).withFetchWord 64 0x000B)) = some (.error, .badLength, 0x000B, 0) := by decide

theorem test_abortSrc :
    outcome (step ((inState .enc).withFetchWord 64 0x000C)) = some (.error, .sourceFault, 0x000C, 0) := by decide

theorem test_abortSnk :
    outcome (step ((inState .dec).withFetchWord 64 0x000D)) = some (.error, .sinkFault, 0x000D, 0) := by decide

theorem test_abortSrc_ignored_in_error :
    outcome (step (failed.withFetchWord 64 0x000C)) = some (.error, .unexpectedEnd, 0x000A, 0) := by decide

theorem test_clear_after_error :
    outcome (step (failed.withFetchWord 64 0x000F)) = some (.idle, .noError, 0, 0) := by decide

/-- V-ERR-1: the zero word. -/
theorem test_illegal_word :
    outcome (step (State.reset.withFetchWord 64 0)) = some (.error, .illegalCmd, 0, 0) := by decide

/-- V-PS-6, V-PS-7, V-PS-10, V-PS-13: StripLen. -/
theorem test_stripLen :
    stripLen (blk 0x4141414141414141 0x0303034141414141) = 3 ∧
      stripLen (blk 0x4141414141414141 0x0303024141414141) = 0 ∧
      stripLen (blk 0x1010101010101010 0x1010101010101010) = 16 ∧
      stripLen (blk 0x101010101010100F 0x1010101010101010) = 0 := by decide +kernel

/-- V-PS-3: Pad. -/
theorem test_pad :
    pad (blk 0xAAAAAAAAAAAAAAAA 0xAAAAAAAAAAAAAAAA) 11 = blk 0xAAAAAAAAAAAAAAAA 0x0505050505AAAAAA := by decide +kernel

/-- STATUS after a completed `FEISTEL.E 0` is `0x1000`: OLEN = 16, FSM = IDLE (10_state.md R25). -/
theorem test_statusWord : ({ State.reset with olen := 16 } : State).statusWord = 0x1000 := by decide

/-- A narrow bus access is refused while reset is asserted too (20_memory.md R63). -/
theorem test_bus_refused_in_reset :
    hostStep (.bus (.read 0 4)) { State.reset with inReset := true } = .refused .accessNotWholeRegister := rfl

/-- V-ERR-15, V-ERR-16: an empty or short IV is `DEC_START n` without LAST (43_cbc_mode.md R199). -/
theorem test_decryptCommands_short_wire :
    decryptCommands 0 [] = [(.decStart 0 false, some 0)] ∧
      (decryptCommands 0 (List.replicate 15 0)).map Prod.fst = [.decStart 15 false] := by decide +kernel

/-- V-CBC-6: an IV-only wire is `DEC_START 16, LAST`. -/
theorem test_decryptCommands_iv_only :
    (decryptCommands 0 (List.replicate 16 0)).map Prod.fst = [.decStart 16 true] := by decide +kernel

/-- rotl_8 and rotr_64: the trace of V-RF-5 (95_test_vectors.md §4). -/
theorem test_rotations :
    rotl (0x80 : Byte) 4 = 0x08 ∧ rotr (0x0100000000000008 : Word) 12 = 0x0080100000000000 := by decide

/-- With nothing to do the machine holds its state (60_exceptions.md R248). -/
theorem test_step_idle : step State.reset = .next State.reset := rfl

/-! ### Witnesses: states and operands that meet the hypotheses of the statements -/

/-- A pending command and one host action to come. -/
def pendingWith (v : Word) (wait : Nat) (todo : List HostAction) : State :=
  { State.reset with pending := some v, wait := wait, todo := todo }

/-- Reset asserted. -/
def asserted : State := { State.reset with inReset := true }

theorem witness_EncodeFollowsFieldLayout :
    31 < 32 ∧ (Instr.feistel true 31).wellFormed = true ∧ encode (.feistel true 31) = encode (.feistel true 31) := by
  decide

theorem witness_DecodeEncodeRoundTrip :
    (Instr.feistel true 31).wellFormed = true ∧ (Instr.encData 31 true).wellFormed = true ∧
      (Instr.decStart 0 false).wellFormed = true := by decide

theorem witness_AcceptedWordIsItsEncoding : decode 0xF812 = .ok (.feistel true 31) := by decide

theorem witness_IllegalWordsAreReported :
    (0xE : Word).extractLsb' 0 4 ∈ ([0x0, 0x5, 0x6, 0x7, 0xE] : List (BitVec 4)) ∧
      decode 0xE = .error .reservedOpcode ∧ State.reset.fsm ≠ .error ∧
      decode 0x8000000000000001 = .error .nonzeroReservedBit ∧ failed.fsm = .error := by decide

/-- Bit 4 of CLEAR's word (V-ERR-4) and bit 63. -/
theorem witness_IllegalWordsAreReported_other_bits :
    Opcode.clear.code = (0x1F : Word).extractLsb' 0 4 ∧ usesBit .clear 4 = false ∧ (0x1F : Word).getLsbD 4 = true ∧
      usesBit .feistel 63 = false := by decide

theorem witness_SpecWordsDecode :
    decode 0x8802 = .ok (.feistel false 17) ∧ decode 0x0013 = .ok (.cipher true) ∧ decode 0x0008 = .ok .encStart := by decide

theorem witness_StepRunsPendingCommand_no_action_left :
    (pendingWith 0x1 7 []).inReset = false ∧ (pendingWith 0x1 7 []).pending = some 0x1 ∧
      (pendingWith 0x1 7 []).todo = [] ∧ decode 0x1 = .ok .ksched := by decide

theorem witness_StepRunsPendingCommand_window_used_up :
    (pendingWith 0xF 0 [.poll]).inReset = false ∧ (pendingWith 0xF 0 [.poll]).wait = 0 ∧
      (pendingWith 0xF 0 [.poll]).todo ≠ [] ∧ decode 0xF = .ok .clear := by decide

theorem witness_StepRunsPendingCommand_no_command :
    decode 0xE = .error .reservedOpcode ∧ (pendingWith 0xE 0 []).inReset = false ∧ (pendingWith 0xE 0 []).fsm ≠ .error ∧
      ({ failed with pending := some 0xE } : State).fsm = .error ∧
      ({ failed with pending := some 0xE } : State).todo = [] := by decide

theorem witness_StepPerformsNextAction_poll :
    (pendingWith 0x3 1 []).inReset = false ∧ (pendingWith 0x3 1 []).pending ≠ none ∧
      State.reset.inReset = false ∧ State.reset.pending = none ∧ State.reset.todo = [] := by decide

theorem witness_StepPerformsNextAction :
    (pendingWith 0xF 1 [.poll]).todo = .poll :: [] ∧ (pendingWith 0xF 1 [.poll]).wait ≠ 0 ∧
      ({ State.reset with todo := [.poll] } : State).pending = none ∧
      ({ asserted with todo := [.resetRelease] } : State).inReset = true := by decide

theorem witness_ErrorStateIgnoresCommands : failed.fsm = .error ∧ (0x1F : Word) ≠ 0x000000000000000F := by decide

theorem witness_OnlyClearAndResetLeaveError_by_clear :
    ∃ t, step { failed with pending := some 0xF } = .next t ∧ t.fsm ≠ .error := ⟨_, rfl, by decide⟩

theorem witness_OnlyClearAndResetLeaveError_by_reset :
    ∃ t, step { failed with todo := [.resetAssert] } = .next t ∧ t.fsm ≠ .error := ⟨_, rfl, by decide⟩

theorem witness_OnlyClearAndResetLeaveError_in_reset :
    ∃ t, step { failed with todo := [.resetRelease], inReset := true } = .next t ∧ t.fsm ≠ .error := ⟨_, rfl, by decide⟩

theorem witness_PendingCommandCompletes :
    (pendingWith 0x3 2 [.poll, rd .dout0]).inReset = false ∧ (pendingWith 0x3 2 [.poll, rd .dout0]).pending = some 0x3 ∧
      ∀ a ∈ (pendingWith 0x3 2 [.poll, rd .dout0]).todo, plainAction a = true := by decide

theorem witness_HostProgramsReachTheirEnd :
    ({ State.reset with todo := loadKey 1 2 ++ issue .ksched ++ [rd .status] } : State).inReset = false ∧
      ∀ a ∈ loadKey 1 2 ++ issue .ksched ++ [rd .status], plainAction a = true := by decide

theorem witness_RegistersHeldWhileBusy :
    ∃ t, (pendingWith 0x3 1 [wr .key0 5]).pending = some 0x3 ∧ step (pendingWith 0x3 1 [wr .key0 5]) = .next t ∧
      t.pending = some 0x3 ∧ t.wib = true := ⟨_, rfl, rfl, rfl, rfl⟩

theorem witness_WriteWhileBusyOnlySetsWib :
    (pendingWith 0x3 1 []).pending ≠ none ∧ (pendingWith 0x3 1 []).inReset = false := by decide

/-- A POLL while BUSY stays the next action (30_encoding.md R89). -/
theorem test_poll_waits :
    ∃ t, step (pendingWith 0x3 2 [.poll, rd .dout0]) = .next t ∧ t.todo = [.poll, rd .dout0] ∧ t.pending = some 0x3 := by
  obtain ⟨-, ht⟩ | ⟨hb, -⟩ := pollTurn_cases (pendingWith 0x3 1 [rd .dout0])
  · exact ⟨pollTurn (pendingWith 0x3 1 [rd .dout0]), rfl, by rw [ht]; rfl, by rw [ht]; rfl⟩
  · cases hb

theorem witness_WriteWhileBusyOnlySetsWib_cleared :
    ∃ t, step { pendingWith 0xF 0 [] with wib := true } = .next t ∧ t.wib = false := ⟨_, rfl, rfl⟩

theorem witness_WriteWhileBusyOnlySetsWib_reset :
    ∃ t, step { State.reset with wib := true, todo := [.resetAssert] } = .next t ∧ t.wib = false := ⟨_, rfl, rfl⟩

theorem witness_ReadsWhileBusy :
    (pendingWith 0x3 1 []).pending ≠ none ∧
      Reg.cv1 ∈ ([.errcmd, .dout0, .dout1, .dout2, .dout3, .cv0, .cv1] : List Reg) ∧ ∃ i, Reg.sk 15 = .sk i :=
  ⟨by decide, by decide, 15, rfl⟩

theorem witness_ReadReturnsValueAndChangesNothing : State.reset.inReset = false ∧ State.reset.pending = none := by decide

theorem witness_WriteWhenIdle :
    State.reset.pending = none ∧ State.reset.inReset = false ∧
      Reg.cv1 ∈ ([.status, .errcmd, .dout0, .dout1, .dout2, .dout3, .cv0, .cv1] : List Reg) ∧
      Reg.eseed1 ∈ ([.key0, .key1, .din0, .din1, .eseed0, .eseed1] : List Reg) ∧ Reg.sk 0 ≠ .sk 15 := by decide

theorem witness_CtrlKeepsThreeBits : (keyed true).pending = none ∧ (keyed true).inReset = false := by decide

theorem witness_CmdWriteStartsCommand :
    State.reset.pending = none ∧ State.reset.inReset = false ∧ (pendingWith 0x3 1 []).pending = some 0x3 ∧
      (pendingWith 0x3 1 []).inReset = false := by decide

/-- Narrow, wide and misaligned, with reset released and asserted. -/
theorem witness_ForeignBusAccessesAreRefused :
    ((4 : Nat) ≠ 8 ∨ 16 % 8 ≠ 0) ∧ ((16 : Nat) ≠ 8 ∨ 16 % 8 ≠ 0) ∧ ((8 : Nat) ≠ 8 ∨ 4 % 8 ≠ 0) ∧
      State.reset.inReset = false ∧ asserted.inReset = true := by decide

theorem witness_BusAccessIsPortAccess :
    (Config.kgpBase + 256) % 8 = 0 ∧ Config.kgpBase + 256 ≤ Config.kgpBase + 256 :=
  ⟨by unfold Config.kgpBase; omega, Nat.le_refl _⟩

theorem witness_ResetInputRestoresState :
    (keyed true).inReset = false ∧ asserted.inReset = true ∧ HostAction.poll ≠ .resetRelease ∧
      ∀ b, HostAction.poll = .bus b → ∃ x, portAccessOf b = .ok x :=
  ⟨rfl, rfl, by decide, fun _ h => HostAction.noConfusion h⟩

theorem witness_StatusFieldsAtTheirBits : 15 ≤ 63 := by decide

theorem witness_OutputBytesLieInDout : 31 < ({ State.reset with olen := 32 } : State).olen.val := by decide

theorem witness_ErrorsArePrecise :
    ∃ t, State.reset.fsm ≠ .error ∧ engineStep 0x8802 State.reset = .next t ∧ t.fsm = .error :=
  ⟨_, by decide, rfl, by decide⟩

theorem witness_FirstErrorInPriorityOrder_in_error :
    failed.fsm = .error ∧ (0x8802 : Word) ≠ 0x000000000000000F := by decide

theorem witness_FirstErrorInPriorityOrder_illegal :
    State.reset.fsm ≠ .error ∧ decode 0x22 = .error .nonzeroReservedBit := by decide

/-- BAD_STATE is reported before BAD_LENGTH, and BAD_LENGTH at LEN = 17. -/
theorem witness_FirstErrorInPriorityOrder_reported :
    decode 0x0229 = .ok (.encData 17 false) ∧ errorOf (.encData 17 false) .idle = some .badState ∧
      errorOf (.encData 17 false) .enc = some .badLength ∧ errorOf (.decStart 15 true) .done = some .unexpectedEnd ∧
      errorOf (.decStart 17 true) .done = some .badLength ∧ errorOf (.feistel false 17) .enc = some .badRounds := by decide

theorem witness_FirstErrorInPriorityOrder_success :
    decode 0x0209 = .ok (.encData 16 false) ∧ errorOf (.encData 16 false) .enc = none ∧
      errorOf (.feistel true 16) .dec = none ∧ Instr.feistel true 16 ≠ .clear := by decide

theorem witness_AbortRecordsHostFault : (inState .done).fsm ≠ .error ∧ failed.fsm = .error := by decide

theorem witness_StepKeepsLegalStates :
    ({ failed with todo := [rd .status] } : State).Inv ∧ ∃ t, step { failed with todo := [rd .status] } = .next t := by
  refine ⟨?_, _, rfl⟩
  constructor <;> decide

theorem witness_EngineNeverWritesHostRegisters :
    ∃ t, exec (.cipher true) (keyed true) = .next t ∧ Instr.cipher true ≠ .clear := ⟨_, rfl, by decide⟩

theorem witness_StreamStateFollowsTable :
    failed.fsm = .error ∧ Instr.ksched ≠ .clear ∧ (inState .enc).fsm ≠ .error ∧
      errorOf .encStart (inState .enc).fsm = some .badState ∧ errorOf (.encData 0 true) (inState .enc).fsm = none := by
  decide

theorem witness_ChainVectorIsCiphertext_encStart :
    ∃ t, exec .encStart seeded = .next t ∧ t.fsm = .enc ∧ seeded.fsm ≠ .enc := ⟨_, rfl, by decide, by decide⟩

theorem witness_ChainVectorIsCiphertext_encData :
    ∃ t, (inState .enc).fsm = .enc ∧ exec (.encData 16 true) (inState .enc) = .next t ∧ t.fsm ≠ .error :=
  ⟨_, rfl, rfl, by decide⟩

theorem witness_ChainVectorIsCiphertext_encData_pad_block :
    ∃ t, exec (.encData 16 true) { inState .enc with apad := true } = .next t ∧ t.fsm ≠ .error ∧ t.olen = 32 :=
  ⟨_, rfl, by decide, by decide⟩

theorem witness_ChainVectorIsCiphertext_encData_boundary_end :
    ∃ t, exec (.encData 0 true) (inState .enc) = .next t ∧ t.fsm ≠ .error ∧ t.olen = 0 :=
  ⟨_, rfl, by decide, by decide⟩

theorem witness_ChainVectorIsCiphertext_decStart :
    ∃ t, (inState .done).fsm ≠ .error ∧ exec (.decStart 16 false) (inState .done) = .next t ∧ t.fsm ≠ .error :=
  ⟨_, by decide, rfl, by decide⟩

theorem witness_ChainVectorIsCiphertext_decData :
    ∃ t, (inState .dec).fsm = .dec ∧ exec (.decData 16 true) (inState .dec) = .next t ∧ t.fsm ≠ .error ∧ 16 ≠ 0 :=
  ⟨_, rfl, rfl, by decide, by decide⟩

theorem witness_ChainVectorIsCiphertext_decData_boundary_end :
    ∃ t, exec (.decData 0 true) (inState .dec) = .next t ∧ t.fsm ≠ .error := ⟨_, rfl, by decide⟩

theorem witness_ChainVectorIsCiphertext_kept :
    ∃ t u, exec .round (inState .enc) = .next t ∧ exec .abortSrc (inState .enc) = .next u ∧ u.fsm = .error :=
  ⟨_, _, rfl, rfl, by decide⟩

theorem witness_SubkeysAreHeldOrScheduled_ksched :
    ∃ t, exec .ksched (keyed true) = .next t ∧ (keyed true).fsm ≠ .error ∧ t.fsm ≠ .error :=
  ⟨_, rfl, by decide, by decide⟩

theorem witness_SubkeysAreHeldOrScheduled_cipher :
    ∃ t, exec (.cipher false) (keyed true) = .next t ∧ (keyed true).fsm ≠ .error ∧ t.fsm ≠ .error :=
  ⟨_, rfl, by decide, by decide⟩

theorem witness_SubkeysAreHeldOrScheduled_encStart :
    ∃ t, exec .encStart seeded = .next t ∧ seeded.fsm ≠ .error ∧ t.fsm ≠ .error := ⟨_, rfl, by decide, by decide⟩

theorem witness_SubkeysAreHeldOrScheduled_encData :
    ∃ t, exec (.encData 0 true) { inState .enc with apad := true } = .next t ∧ t.fsm ≠ .error ∧
      ∃ u, exec (.encData 1 true) (inState .enc) = .next u ∧ u.fsm ≠ .error :=
  ⟨_, rfl, by decide, _, rfl, by decide⟩

theorem witness_SubkeysAreHeldOrScheduled_decData :
    ∃ t, exec (.decData 16 false) (inState .dec) = .next t ∧ t.fsm ≠ .error := ⟨_, rfl, by decide⟩

theorem witness_KschedWritesLapplandSchedule : (keyed false).fsm ≠ .error ∧ (keyed false).csel = false := by decide

theorem witness_KschedWritesMisakaSchedule : (keyed true).fsm ≠ .error ∧ (keyed true).csel = true := by decide

theorem witness_LapplandScheduleCorners :
    (14 : Fin 16).val % 2 = 0 ∧ (15 : Fin 16).val % 2 = 1 ∧
      ∀ i : Fin 16, (lapSchedule 0 (BitVec.allOnes 64))[i] = 0 := by decide +kernel

theorem witness_MisakaScheduleCorners : BitVec.allOnes 64 = (0xFFFFFFFFFFFFFFFF : Word) := by decide

theorem witness_LapplandRoundCorners : 0 < 8 ∧ 1 ≤ 7 ∧ 7 < 8 ∧ (lapLoop id 0 8).toNat % 63 = 0 := by decide +kernel

/-- Row 5 of the table of SBOX_AFF (95_test_vectors.md §2). -/
theorem witness_MisakaRoundFormula :
    ∀ j, j < 8 → byte (0x3E2104E7CAAD9073 : Word) j = affBox (byte (0x5756555453525150 : Word) j) := by decide +kernel

theorem witness_RoundAppliesSelectedFunction :
    63 < 64 ∧ (keyed false).fsm ≠ .error ∧ (keyed false).csel = false ∧ (keyed true).csel = true := by decide

theorem witness_FeistelCommandResult : (keyed true).fsm ≠ .error ∧ 16 ≤ 16 := by decide

theorem witness_FeistelCommandRoundTrip : (inState .enc).fsm ≠ .error ∧ 16 ≤ 16 := by decide

/-- SK[2] and above differ, and FEISTEL with NR = 2 runs. -/
theorem witness_FeistelIgnoresUnusedSubkeys :
    ∃ t, (∀ i : Fin 16, i.val < 2 → (Vector.replicate 16 (0 : Word) |>.set 2 7)[i] = (keyed true).sk[i]) ∧
      exec (.feistel false 2) (keyed true) = .next t := ⟨_, by decide, rfl⟩

theorem witness_CipherCommandResult :
    (keyed false).fsm ≠ .error ∧ (keyed false).csel = false ∧ (keyed true).csel = true := by decide

theorem witness_LapplandCipherIsFeistelOverSchedule :
    (keyed false).fsm ≠ .error ∧ (keyed false).csel = false := by decide

theorem witness_EncStartOpensStream :
    (seeded.fsm = .idle ∨ seeded.fsm = .done) ∧ seeded.esrc = true ∧
      ((inState .done).fsm = .idle ∨ (inState .done).fsm = .done) ∧ (inState .done).esrc = false := by decide

theorem witness_EncDataCases :
    (inState .enc).fsm = .enc ∧ (true && (inState .enc).apad) = false ∧
      ({ inState .enc with apad := true } : State).apad = true ∧ (1 ≤ 15 ∧ 15 ≤ 15) ∧ (inState .enc).apad = false := by
  decide

theorem witness_DecStartLoadsChain : (inState .done).fsm = .idle ∨ (inState .done).fsm = .done := by decide

theorem witness_DecDataCases : (inState .dec).fsm = .dec := by decide

theorem witness_PadKeepsPrefixAndFills : 15 ≤ 15 ∧ 15 < 16 := by decide

/-- V-PS-10 for the whole block, V-PS-8 and V-PS-9 for a last byte outside 1..16. -/
theorem witness_StripLenFollowsTheCheck :
    (byte (blk 0x1010101010101010 0x1010101010101010) 15).toNat = 16 ∧
      (∀ i, i ≤ 15 → (byte (blk 0x1010101010101010 0x1010101010101010) i).toNat = 16) ∧
      (byte (blk 0x4141414141414141 0x0041414141414141) 15).toNat = 0 ∧
      (byte (blk 0x4141414141414141 0x1141414141414141) 15).toNat = 17 := by decide +kernel

theorem witness_StripUndoesPad : 0 ≤ 15 ∧ 15 ≤ 15 := by decide

theorem witness_CiphertextChangePropagates : (inState .dec).fsm = .dec := by decide

theorem witness_StreamRoundTripRecoversPlaintext_full_pad :
    (State.reset.fsm = .idle ∨ State.reset.fsm = .done) ∧ ((inState .done).fsm = .idle ∨ (inState .done).fsm = .done) ∧
      (inState .done).csel = State.reset.csel ∧ (inState .done).key0 = State.reset.key0 ∧
      (inState .done).key1 = State.reset.key1 ∧ recoverable true (List.replicate 16 1) :=
  ⟨by decide, by decide, rfl, rfl, rfl, .inl rfl⟩

theorem witness_StreamRoundTripRecoversPlaintext_remainder : recoverable false [0x68, 0x65, 0x6C, 0x6C, 0x6F] :=
  .inr (.inl (by decide))

theorem witness_StreamRoundTripRecoversPlaintext_empty : recoverable false [] := .inr (.inr (.inl rfl))

theorem witness_StreamRoundTripRecoversPlaintext_whole_last_block : recoverable false (List.replicate 32 0x41) :=
  .inr (.inr (.inr (by decide +kernel)))

/-- V-CBC-4: sixteen bytes whose last one is 0x01. -/
theorem witness_ReferencePolicyLosesPadLikeTail :
    (State.reset.fsm = .idle ∨ State.reset.fsm = .done) ∧ State.reset.apad = false ∧
      (List.replicate 15 (0 : Byte) ++ [1]) ≠ [] ∧ (List.replicate 15 (0 : Byte) ++ [1]).length % 16 = 0 ∧
      1 = stripLen (blockOf 0 ((List.replicate 15 (0 : Byte) ++ [1]).drop
        ((List.replicate 15 (0 : Byte) ++ [1]).length - 16))) := by decide +kernel

end Sys2Proof.Tests
end

section
/-! The state: what a write of CTRL keeps and what reset leaves (10_state.md). -/

namespace Sys2Proof.Machine

/-- With reset released and BUSY = 0 a host write is the write of the register it names (20_memory.md R64). -/
theorem hostStep_write_idle {s : State} (hidle : s.pending = none) (hlive : s.inReset = false) (r : Reg) (v : Word) :
    hostStep (.access (.write r.index v)) s = .next (writeReg r v s) := by
  rw [hostStep_live hlive, ← hostWrite_idle hidle]
  rfl

/-- The bits of CTRL: CSEL[0], APAD[1], ESRC[2], the rest 0 (10_state.md R22, R23). -/
theorem getLsbD_ctrlWord (s : State) (k : Nat) :
    s.ctrlWord.getLsbD k =
      if k = 0 then s.csel else if k = 1 then s.apad else decide (k = 2) && s.esrc := by
  simp only [State.ctrlWord, BitVec.getLsbD_setWidth, BitVec.getLsbD_append, BitVec.getLsbD_ofBool]
  match k with
  | 0 => simp
  | 1 => simp
  | 2 => simp
  | k + 3 => simp

/-- Masking with 7 keeps bits 2:0. -/
theorem getLsbD_and_seven (v : Word) (k : Nat) : (v &&& 7).getLsbD k = (v.getLsbD k && decide (k < 3)) := by
  have hseven : (7 : Word) = (BitVec.allOnes 3).setWidth 64 := rfl
  have hwidth : k < 3 → k < 64 := by omega
  simp only [BitVec.getLsbD_and, hseven, BitVec.getLsbD_setWidth, BitVec.getLsbD_allOnes, ← Bool.decide_and,
    and_iff_right_of_imp hwidth]

/-- CTRL reads back the low three bits of the last word written to it (10_state.md R23). -/
theorem ctrlWord_writeReg_ctrl (s : State) (v : Word) : (writeReg .ctrl v s).ctrlWord = v &&& 7 := by
  apply BitVec.eq_of_getLsbD_eq
  intro k _
  rw [getLsbD_ctrlWord, getLsbD_and_seven]
  match k with
  | 0 => simp [writeReg]
  | 1 => simp [writeReg]
  | 2 => simp [writeReg]
  | k + 3 => simp

/-- Every register reads 0 after reset (10_state.md R41): CTRL and STATUS since all their fields are 0, the codes of
IDLE and NO_ERROR among them. -/
theorem readReg_reset (r : Reg) : readReg State.reset r = 0 := by
  cases r with
  | ctrl => decide
  | status => decide
  | sk i => exact Vector.getElem_replicate i.isLt
  | _ => rfl

/-- Settles O18: the write is `writeReg` of CTRL, and its three bits are the low ones of the word. -/
theorem ctrlKeepsThreeBits : Obligations.CtrlKeepsThreeBits := by
  refine ⟨fun s v hidle hlive => ?_, fun s => rfl⟩
  exact ⟨_, hostStep_write_idle hidle hlive .ctrl v, rfl, ctrlWord_writeReg_ctrl s v⟩

/-- Settles O23: the registers by `readReg_reset`, the fields by the definition of the reset state. -/
theorem resetLeavesEveryRegisterZero : Obligations.ResetLeavesEveryRegisterZero :=
  ⟨readReg_reset, rfl, rfl, rfl, rfl, rfl, rfl, rfl, rfl, rfl⟩

end Sys2Proof.Machine
end

section
/-! The command word: the mask and match test bit by bit, the decoder's graph, and decoding an encoding
(30_encoding.md R81 to R87). -/

namespace Sys2Proof

open Sys2Proof.Machine Sys2Proof.Laws

/-! ### The mask and match test -/

/-- The mask of an opcode covers OP and every bit the opcode does not use (30_encoding.md R84). -/
theorem getLsbD_mask (op : Opcode) {k : Nat} (hk : k < 64) :
    op.mask.getLsbD k = (decide (k < 4) || !usesBit op k) := by
  revert k
  cases op <;> decide

/-- The match column is the OP column (30_encoding.md R83, R84). -/
theorem pattern_eq_code (op : Opcode) : op.pattern = op.code.setWidth 64 := by
  cases op <;> rfl

theorem getLsbD_fieldOp (v : Word) (k : Nat) : (fieldOp v).getLsbD k = (decide (k < 4) && v.getLsbD k) := by
  simp [fieldOp]

/-- The mask and match test says that OP is the opcode and that every other bit set is a bit the opcode uses
(30_encoding.md R84). -/
theorem and_mask_eq_pattern_iff (v : Word) (op : Opcode) :
    v &&& op.mask = op.pattern ↔
      op.code = fieldOp v ∧ ∀ k, k < 64 → v.getLsbD k = true → k < 4 ∨ usesBit op k = true := by
  have hbits : v &&& op.mask = op.pattern ↔
      ∀ k, k < 64 → (v.getLsbD k && (decide (k < 4) || !usesBit op k)) = op.code.getLsbD k := by
    rw [BitVec.eq_of_getLsbD_eq_iff]
    refine forall₂_congr fun k hk => ?_
    rw [BitVec.getLsbD_and, getLsbD_mask op hk, pattern_eq_code, BitVec.getLsbD_setWidth, decide_eq_true hk,
      Bool.true_and]
  rw [hbits]
  constructor
  · intro h
    constructor
    · apply BitVec.eq_of_getLsbD_eq
      intro k hk
      have := h k (by omega)
      rw [getLsbD_fieldOp, ← this]
      simp [hk]
    · intro k hk hv
      by_contra hnot
      obtain ⟨hge, hunused⟩ := not_or.1 hnot
      have := h k hk
      simp [hv, hunused, BitVec.getLsbD_of_ge op.code k (by omega)] at this
  · rintro ⟨hop, hrest⟩ k hk
    rw [hop, getLsbD_fieldOp]
    by_cases hlow : k < 4
    · simp [hlow]
    · cases hv : v.getLsbD k with
      | false => simp
      | true => simp [hlow, (hrest k hk hv).resolve_left hlow]

/-! ### The decoder's graph -/

@[simp] theorem opcodeOf_assemble (op : Opcode) (v : Word) : opcodeOf (op.assemble v) = op := by
  cases op <;> rfl

/-- Opcodes with one code are one opcode (30_encoding.md R83). -/
theorem code_injective {a b : Opcode} (h : a.code = b.code) : a = b :=
  Option.some.inj (((ofCode_eq_some _ _).2 rfl).symm.trans ((ofCode_eq_some _ _).2 h.symm))

/-- The decoder answers a command exactly for the words that pass the test of the command's opcode and carry its
operands (30_encoding.md R82, R84). -/
theorem decode_eq_ok_iff (v : Word) (i : Instr) :
    decode v = .ok i ↔ v &&& (opcodeOf i).mask = (opcodeOf i).pattern ∧ (opcodeOf i).assemble v = i := by
  constructor
  · intro h
    obtain ⟨op, -, hmatch, rfl⟩ := decode_eq_ok h
    simp [hmatch]
  · rintro ⟨hmatch, hi⟩
    have hop := (ofCode_eq_some _ _).2 ((and_mask_eq_pattern_iff v _).1 hmatch).1
    simp [decode, hop, hmatch, hi]

/-- A word is accepted exactly when it passes some opcode's mask and match test (30_encoding.md R84). -/
theorem accepted_iff (v : Word) : (∃ i, decode v = .ok i) ↔ ∃ op : Opcode, v &&& op.mask = op.pattern := by
  constructor
  · rintro ⟨i, h⟩
    exact ⟨_, ((decode_eq_ok_iff v i).1 h).1⟩
  · rintro ⟨op, h⟩
    exact ⟨op.assemble v, (decode_eq_ok_iff v _).2 (by simpa using h)⟩

/-- The decoder is total: a word it does not accept is rejected by name (30_encoding.md R86). -/
theorem rejected_iff (v : Word) : (∃ e, decode v = .error e) ↔ ¬∃ i, decode v = .ok i := by
  cases decode v <;> simp

/-! ### Decoding an encoding -/

section
variable (op : Opcode) (inv : Bool) (len : Nat) (last : Bool) (nr : Nat)

@[simp] theorem fieldInv_encodeFields : fieldInv (encodeFields op inv len last nr) = inv := by
  rw [fieldInv, getLsbD_encodeFields]
  rfl

@[simp] theorem fieldLast_encodeFields : fieldLast (encodeFields op inv len last nr) = last := by
  rw [fieldLast, getLsbD_encodeFields]
  rfl

theorem fieldLen_encodeFields (h : len < 32) : fieldLen (encodeFields op inv len last nr) = len := by
  have hbits : (encodeFields op inv len last nr).extractLsb' 5 5 = BitVec.ofNat 5 len := by
    apply BitVec.eq_of_getLsbD_eq
    intro k hk
    rw [BitVec.getLsbD_extractLsb', getLsbD_encodeFields, if_neg (by omega), if_neg (by omega), if_pos (by omega)]
    simp [hk]
  rw [fieldLen, hbits, BitVec.toNat_ofNat, Nat.mod_eq_of_lt h]

theorem fieldNr_encodeFields (h : nr < 32) : fieldNr (encodeFields op inv len last nr) = nr := by
  have hbits : (encodeFields op inv len last nr).extractLsb' 11 5 = BitVec.ofNat 5 nr := by
    apply BitVec.eq_of_getLsbD_eq
    intro k hk
    rw [BitVec.getLsbD_extractLsb', getLsbD_encodeFields, if_neg (by omega), if_neg (by omega), if_neg (by omega),
      if_neg (by omega)]
    simp [hk]
  rw [fieldNr, hbits, BitVec.toNat_ofNat, Nat.mod_eq_of_lt h]

end

/-- The operands of a well-formed command are the fields of its word (30_encoding.md R82, R87). -/
theorem assemble_encode {i : Instr} (h : i.wellFormed = true) : (opcodeOf i).assemble (encode i) = i := by
  cases i with
  | feistel inv nr =>
    have hnr : nr < 32 := of_decide_eq_true h
    simp [opcodeOf, Opcode.assemble, encode, fieldNr_encodeFields, hnr]
  | encData len last | decStart len last | decData len last =>
    have hlen : len < 32 := of_decide_eq_true h
    simp [opcodeOf, Opcode.assemble, encode, fieldLen_encodeFields, hlen]
  | cipher inv => simp [opcodeOf, Opcode.assemble, encode]
  | ksched | round | encStart | abortSrc | abortSnk | clear => rfl

/-- Every command's word passes the test of its opcode (30_encoding.md R83, R84). -/
theorem encode_and_mask : ∀ i : Instr, encode i &&& (opcodeOf i).mask = (opcodeOf i).pattern
  | .ksched => EncodesWellFormed.ksched
  | .feistel inv nr => EncodesWellFormed.feistel inv nr
  | .cipher inv => EncodesWellFormed.cipher inv
  | .round => EncodesWellFormed.round
  | .encStart => EncodesWellFormed.encStart
  | .encData len last => EncodesWellFormed.encData len last
  | .decStart len last => EncodesWellFormed.decStart len last
  | .decData len last => EncodesWellFormed.decData len last
  | .abortSrc => EncodesWellFormed.abortSrc
  | .abortSnk => EncodesWellFormed.abortSnk
  | .clear => EncodesWellFormed.clear

/-- Decoding the word of a well-formed command gives it back (30_encoding.md R87). -/
theorem decode_encode {i : Instr} (h : i.wellFormed = true) : decode (encode i) = .ok i :=
  (decode_eq_ok_iff _ _).2 ⟨encode_and_mask i, assemble_encode h⟩

/-- Well-formed commands have distinct words (30_encoding.md R87). -/
theorem encode_injective {i j : Instr} (hi : i.wellFormed = true) (hj : j.wellFormed = true)
    (h : encode i = encode j) : i = j := by
  have hij : Except.ok (ε := DecodeError) i = .ok j := by rw [← decode_encode hi, h, decode_encode hj]
  exact Except.ok.inj hij

/-! ### The layout of a word -/

/-- Concatenation as a disjunction: the high part is shifted past the low part. -/
theorem setWidth_append_eq_or {m n : Nat} (w : Nat) (hi : BitVec m) (lo : BitVec n) :
    (hi ++ lo).setWidth w = lo.setWidth w ||| hi.setWidth w <<< n := by
  apply BitVec.eq_of_getLsbD_eq
  intro k hk
  simp only [BitVec.getLsbD_or, BitVec.getLsbD_shiftLeft, BitVec.getLsbD_setWidth, BitVec.getLsbD_append, hk]
  by_cases h : k < n
  · simp [h]
  · simp [h, BitVec.getLsbD_of_ge lo k (Nat.le_of_not_lt h), Nat.lt_of_le_of_lt (Nat.sub_le k n) hk]

/-- A count that fits its field is the field, widened (30_encoding.md R81). -/
theorem ofNat_eq_setWidth {n : Nat} (h : n < 32) : (BitVec.ofNat 64 n : Word) = (BitVec.ofNat 5 n).setWidth 64 := by
  apply BitVec.eq_of_toNat_eq
  simp [Nat.mod_eq_of_lt h]

/-- The word is the disjunction of its fields, each shifted to its place (30_encoding.md R87). -/
theorem encodeFields_eq_or (op : Opcode) (inv last : Bool) {len nr : Nat} (hlen : len < 32) (hnr : nr < 32) :
    encodeFields op inv len last nr =
      op.code.setWidth 64 ||| ((BitVec.ofBool inv).setWidth 64 <<< 4) ||| (BitVec.ofNat 64 len <<< 5) |||
        ((BitVec.ofBool last).setWidth 64 <<< 10) ||| (BitVec.ofNat 64 nr <<< 11) := by
  rw [ofNat_eq_setWidth hlen, ofNat_eq_setWidth hnr]
  simp only [encodeFields, setWidth_append_eq_or, BitVec.shiftLeft_or_distrib]
  simp only [← BitVec.shiftLeft_add, Nat.reduceAdd, BitVec.or_assoc]

/-- Settles O1: the concatenation of R87 read as a disjunction of shifted fields, and injectivity from decoding an
encoding. -/
theorem encodeFollowsFieldLayout : Obligations.EncodeFollowsFieldLayout :=
  ⟨fun op inv last _ _ hlen hnr => encodeFields_eq_or op inv last hlen hnr, fun _ _ => encode_injective⟩

/-- Settles O4: the decoder accepts what passes the mask and match test, which `and_mask_eq_pattern_iff` reads bit by
bit; the mask of KSCHED is all ones. -/
theorem wordAcceptedExactlyWhenWellFormed : Obligations.WordAcceptedExactlyWhenWellFormed := by
  intro v
  refine ⟨?_, ?_, ?_⟩
  · rw [accepted_iff]
    exact exists_congr (and_mask_eq_pattern_iff v)
  · rw [accepted_iff]
    exact exists_congr fun op => (and_iff_right_of_imp fun h => ((and_mask_eq_pattern_iff v op).1 h).1).symm
  · rw [decode_eq_ok_iff]
    have hmask : Opcode.ksched.mask = BitVec.allOnes 64 := rfl
    rw [opcodeOf, hmask, BitVec.and_allOnes]
    simp [Opcode.pattern, Opcode.assemble]

end Sys2Proof
end

section
/-! Words that are no command, and the words the spec lists (30_encoding.md R86, R88, R90). -/

namespace Sys2Proof.Machine

/-- A reserved code is the code of no opcode (30_encoding.md R83, R86). -/
theorem code_not_reserved (op : Opcode) : op.code ∉ ([0x0, 0x5, 0x6, 0x7, 0xE] : List (BitVec 4)) := by
  cases op <;> decide

/-- The engine's step on a word that is no command: ILLEGAL_CMD or nothing, and BUSY falls (30_encoding.md R86). -/
theorem engineStep_illegal {v : Word} {e : DecodeError} (h : decode v = .error e) (s : State) :
    engineStep v s = .next (complete (unlessError (errorEntry .illegalCmd v) s)) := by
  rcases runWord_cases v s with ⟨i, hi, -⟩ | ⟨_, -, hrun⟩
  · rw [h] at hi
    cases hi
  · rw [engineStep, hrun, completeOutcome]

/-- Settles O5: the reserved codes and the unused bits fail `and_mask_eq_pattern_iff`; the rest is
`engineStep_illegal` in and outside ERROR. -/
theorem illegalWordsAreReported : Obligations.IllegalWordsAreReported := by
  refine ⟨fun v hv => ?_, fun v op k hop hk hunused hset => ?_, fun v e s h hlive => ?_, fun v e s h herr => ?_,
    .reservedOpcode, by decide⟩
  · rw [rejected_iff, accepted_iff]
    rintro ⟨op, hmatch⟩
    have hop : op.code = v.extractLsb' 0 4 := ((and_mask_eq_pattern_iff v op).1 hmatch).1
    exact code_not_reserved op (hop ▸ hv)
  · rw [rejected_iff, accepted_iff]
    rintro ⟨op', hmatch⟩
    obtain ⟨hop', hbits⟩ := (and_mask_eq_pattern_iff v op').1 hmatch
    obtain rfl : op' = op := code_injective (hop'.trans hop.symm)
    have hlt : k < 64 := BitVec.lt_of_getLsbD hset
    rcases hbits k hlt hset with hlow | hused
    · omega
    · simp [hunused] at hused
  · rw [engineStep_illegal h, unlessError_of_live hlive]
    rfl
  · rw [engineStep_illegal h, unlessError_of_error herr]
    rfl

/-- Settles O6, by evaluation of the listed words; the rest is what `encode`, `wr`, `rd` and `cmd` are defined as. -/
theorem specWordsDecode : Obligations.SpecWordsDecode :=
  ⟨by decide, by decide, by decide, fun _ _ => rfl, fun _ _ => ⟨rfl, rfl, rfl⟩, fun _ _ _ => ⟨rfl, rfl, rfl⟩⟩

end Sys2Proof.Machine
end

section
/-! The Feistel network: the subkey order, and the two directions as inverses of each other (40_feistel.md). -/

namespace Sys2Proof.Machine

/-- The order in which the network uses `n` indexed subkeys: by rising index, or from `n-1` down with inv
(40_feistel.md R100, R102). -/
theorem subkeyOrder_eq_map {α : Type} (n : Nat) (k : Nat → α) (inv : Bool) :
    (if inv then ((List.range n).map k).reverse else (List.range n).map k) =
      (List.range n).map fun i => k (if inv then n - 1 - i else i) := by
  cases inv with
  | false => rfl
  | true => simp [← List.map_reverse, List.range_eq_range', List.reverse_range']

/-- Settles O43: the loop is a fold over the subkeys in their order, and the order is `subkeyOrder_eq_map`. -/
theorem feistelLoopUsesIndexedSubkeys : Obligations.FeistelLoopUsesIndexedSubkeys := by
  intro w n F k l r inv
  rw [feistel, feistelRounds_eq_foldl, subkeyOrder_eq_map, List.foldl_map]

/-- The exchange of the halves, one round and the exchange again undo a round with the same subkey: the second XOR
with `F R k` cancels the first, whatever `F` is (40_feistel.md R104). -/
theorem feistelRounds_swap_singleton {n : Nat} (F : BitVec n → BitVec n → BitVec n) (k : BitVec n)
    (lr : BitVec n × BitVec n) : feistelRounds F [k] (feistelRounds F [k] lr).swap = lr.swap := by
  simp [feistelRounds, Prod.swap]

/-- The loop over the reversed subkeys, on the exchanged result of the loop, gives back the exchanged input
(40_feistel.md R104). -/
theorem feistelRounds_reverse_swap {n : Nat} (F : BitVec n → BitVec n → BitVec n) (ks : List (BitVec n))
    (lr : BitVec n × BitVec n) : feistelRounds F ks.reverse (feistelRounds F ks lr).swap = lr.swap := by
  induction ks generalizing lr with
  | nil => rfl
  | cons k ks ih =>
    calc feistelRounds F (k :: ks).reverse (feistelRounds F (k :: ks) lr).swap
        = feistelRounds F [k] (feistelRounds F ks.reverse (feistelRounds F ks (feistelRounds F [k] lr)).swap) := by
          rw [List.reverse_cons, feistelRounds_append]
          rfl
      _ = feistelRounds F [k] (feistelRounds F [k] lr).swap := by rw [ih]
      _ = lr.swap := feistelRounds_swap_singleton F k lr

/-- Settles O44: the other direction is the loop over the reversed subkeys, so `feistelRounds_reverse_swap` undoes the
forward loop and, for the reversed list, the inverse one. -/
theorem feistelInvertible : Obligations.FeistelInvertible := by
  intro w F ks l r inv
  cases inv with
  | false => exact congrArg Prod.swap (feistelRounds_reverse_swap F ks (l, r))
  | true =>
    have h := feistelRounds_reverse_swap F ks.reverse (l, r)
    rw [List.reverse_reverse] at h
    exact congrArg Prod.swap h

end Sys2Proof.Machine
end

section
/-! The key schedules: their corners, and KSCHED as the command that writes them (41_round_functions.md R122, R123,
R126, R127, R130). -/

namespace Sys2Proof.Machine

/-- Subkey 0 of LapSchedule is 0, since a rotation by 0 is the identity (41_round_functions.md R123). -/
theorem lapSchedule_getElem_zero (k0 k1 : Word) : (lapSchedule k0 k1)[0] = 0 := by
  rw [lapSchedule_getElem, rotl_zero, BitVec.xor_self]
  rfl

/-- A word of zeros or ones is every left rotation of itself (41_round_functions.md R123, R127). -/
theorem rotl_of_uniform {n : Nat} {k : BitVec n} (hk : k = 0 ∨ k = BitVec.allOnes n) (s : Nat) : rotl k s = k := by
  rcases hk with rfl | rfl
  · exact rotl_zeros s
  · exact rotl_allOnes s

/-- A word of zeros or ones is every right rotation of itself (41_round_functions.md R127). -/
theorem rotr_of_uniform {n : Nat} {k : BitVec n} (hk : k = 0 ∨ k = BitVec.allOnes n) (s : Nat) : rotr k s = k := by
  rcases hk with rfl | rfl
  · exact rotr_zeros s
  · exact rotr_allOnes s

/-- MisSchedule of two equal key words (41_round_functions.md R127). -/
theorem misSchedule_getElem_self (k : Word) (i : Fin 16) : (misSchedule k k)[i] = rotl k i.val ^^^ rotr k i.val := by
  simp only [Fin.getElem_fin, misSchedule_getElem, ite_self]

/-- A schedule of zeros as a list (41_round_functions.md R123). -/
theorem toList_eq_replicate_of_zero {ks : Vector Word 16} (h : ∀ i : Fin 16, ks[i] = 0) :
    ks.toList = List.replicate 16 0 := by
  have hks : ks = Vector.replicate 16 0 := Vector.ext fun i hi => by
    rw [Vector.getElem_replicate]
    exact h ⟨i, hi⟩
  rw [hks, Vector.toList_replicate]

/-- Subkeys that read the same in both orders make the two directions of the network one function
(40_feistel.md R100, R102). -/
theorem feistelBlock_true_of_palindrome (F : Word → Word → Word) {ks : List Word} (h : ks.reverse = ks) (b : Block) :
    feistelBlock F ks b true = feistelBlock F ks b false := by
  simp [feistelBlock, feistel, h]

/-- Settles O38: each subkey is `k XOR rotl k i`, which cancels for rotation 0 and for uniform key words; a schedule of
zeros is its own reversal. -/
theorem lapplandScheduleCorners : Obligations.LapplandScheduleCorners := by
  refine ⟨lapSchedule_getElem_zero, fun k0 k1 i heven hk => ?_, fun k0 k1 i hodd hk => ?_, fun T k0 k1 b hzero => ?_⟩
  · rw [Fin.getElem_fin, lapSchedule_getElem, if_pos heven, rotl_of_uniform hk, BitVec.xor_self]
    rfl
  · rw [Fin.getElem_fin, lapSchedule_getElem, if_neg (by omega), rotl_of_uniform hk, BitVec.xor_self]
    rfl
  · have hlist : (schedule false k0 k1).toList = List.replicate 16 0 := toList_eq_replicate_of_zero hzero
    exact feistelBlock_true_of_palindrome _ (by rw [hlist, List.reverse_replicate]) b

/-- Settles O39: subkey i is the XOR of two rotations by i, which are the words themselves for i = 0 and equal for
uniform words. -/
theorem misakaScheduleCorners : Obligations.MisakaScheduleCorners := by
  refine ⟨fun k0 k1 => ?_, fun k i hk => ?_, misSchedule_getElem_self⟩
  · rw [misSchedule_getElem, rotl_zero, rotr_zero]
    rfl
  · rw [misSchedule_getElem_self, rotl_of_uniform hk, rotr_of_uniform hk, BitVec.xor_self]
    rfl

/-- KSCHED outside ERROR writes the selected schedule to SK and clears the output (41_round_functions.md R130). -/
theorem exec_ksched_of_live {s : State} (hlive : s.fsm ≠ .error) :
    exec .ksched s = .next { s with
      sk := schedule s.csel s.key0 s.key1, dout0 := 0, dout1 := 0, dout2 := 0, dout3 := 0, olen := 0 } :=
  congrArg Host.Outcome.next (unlessError_of_live hlive)

/-- Settles O36: KSCHED writes LapSchedule, whose subkeys are `lapSchedule_getElem`. -/
theorem kschedWritesLapplandSchedule : Obligations.KschedWritesLapplandSchedule := by
  intro s hlive hcsel
  refine ⟨_, exec_ksched_of_live hlive, rfl, fun i => ?_⟩
  rw [hcsel]
  exact lapSchedule_getElem _ _ i.val i.isLt

/-- Settles O37: KSCHED writes MisSchedule, whose subkeys are `misSchedule_getElem`. -/
theorem kschedWritesMisakaSchedule : Obligations.KschedWritesMisakaSchedule := by
  intro s hlive hcsel
  refine ⟨_, exec_ksched_of_live hlive, rfl, fun i => ?_⟩
  rw [hcsel]
  exact misSchedule_getElem _ _ i.val i.isLt

end Sys2Proof.Machine
end

section
/-! The round functions: the bytes of LapRound's accumulator, and MisRound over its substituted word
(41_round_functions.md R120, R121, R124). -/

namespace Sys2Proof.Machine

/-! ### Bytes of the operators of LapRound's loop -/

theorem byte_or {n : Nat} (x y : BitVec n) (i : Nat) : byte (x ||| y) i = byte x i ||| byte y i :=
  BitVec.extractLsb'_or

@[simp] theorem byte_zero {n : Nat} (i : Nat) : byte (0#n) i = 0 := BitVec.extractLsb'_zero

/-- A byte widened to a word is byte 0 of the word, and the other bytes are 0. -/
theorem byte_setWidth (r : Byte) (i : Nat) : byte (r.setWidth 64) i = if i = 0 then r else 0 := by
  apply BitVec.eq_of_getLsbD_eq
  intro k hk
  rw [getLsbD_byte, BitVec.getLsbD_setWidth]
  by_cases hi : i = 0
  · have hin : k < 64 := by omega
    simp [hi, hk, hin]
  · have hout : r.getLsbD (8 * i + k) = false := BitVec.getLsbD_of_ge _ _ (by omega)
    simp [hi, hout]

/-- The shift by 8 clears byte 0 (41_round_functions.md R121). -/
theorem byte_shiftLeft_zero (x : Word) : byte (x <<< lapShift) 0 = 0 := by
  apply BitVec.eq_of_getLsbD_eq
  intro k hk
  have hlow : 8 * 0 + k < 8 := by omega
  simp only [getLsbD_byte, BitVec.getLsbD_shiftLeft, lapShift, hlow, decide_true, Bool.not_true, Bool.and_false,
    Bool.false_and]
  exact (BitVec.getLsbD_zero).symm

/-- The shift by 8 moves each byte but the last one place up. -/
theorem byte_shiftLeft_succ (x : Word) {i : Nat} (hi : i < 7) : byte (x <<< lapShift) (i + 1) = byte x i := by
  apply BitVec.eq_of_getLsbD_eq
  intro k hk
  have hin : 8 * (i + 1) + k < 64 := by omega
  have hge : ¬ 8 * (i + 1) + k < 8 := by omega
  have hsub : 8 * (i + 1) + k - 8 = 8 * i + k := by omega
  simp only [getLsbD_byte, BitVec.getLsbD_shiftLeft, lapShift, hin, hge, hsub, decide_true, decide_false,
    Bool.not_false, Bool.true_and]

/-! ### The accumulator of LapRound -/

/-- The byte that step j of LapRound's loop ORs into the accumulator (41_round_functions.md R120). -/
def lapByte (sbox : Byte → Byte) (half : Word) (j : Nat) : Byte :=
  rotl (sbox (byte half j)) (lapAmount (lapLoop sbox half j) j)

section
variable (sbox : Byte → Byte) (half : Word)

/-- One byte of the loop, before byte 7: OR, then shift (41_round_functions.md R120). -/
theorem lapLoop_succ_of_lt {j : Nat} (hj : j < 7) :
    lapLoop sbox half (j + 1) = (lapLoop sbox half j ||| (lapByte sbox half j).setWidth 64) <<< lapShift := by
  rw [lapLoop_succ]
  exact if_pos hj

/-- Byte 7 of the loop: OR without a shift (41_round_functions.md R120). -/
theorem lapLoop_eight : lapLoop sbox half 8 = lapLoop sbox half 7 ||| (lapByte sbox half 7).setWidth 64 :=
  lapLoop_succ sbox half 7

/-- Byte 0 of the accumulator is 0 before each OR (41_round_functions.md R121). -/
theorem byte_lapLoop_zero {j : Nat} (hj : j < 8) : byte (lapLoop sbox half j) 0 = 0 := by
  cases j with
  | zero => exact byte_zero 0
  | succ j => rw [lapLoop_succ_of_lt sbox half (by omega), byte_shiftLeft_zero]

/-- The OR puts the new byte into the empty byte 0 and leaves the others (41_round_functions.md R121). -/
theorem byte_lapLoop_or {j : Nat} (hj : j < 8) (i : Nat) :
    byte (lapLoop sbox half j ||| (lapByte sbox half j).setWidth 64) i =
      if i = 0 then lapByte sbox half j else byte (lapLoop sbox half j) i := by
  rw [byte_or, byte_setWidth]
  by_cases hi : i = 0
  · simp [hi, byte_lapLoop_zero sbox half hj]
  · simp [hi]

/-- After the OR of step `i + d` the byte of step i stands `d` places up: one place for each shift since
(41_round_functions.md R121). -/
theorem byte_lapLoop_or_add (i d : Nat) (h : i + d < 8) :
    byte (lapLoop sbox half (i + d) ||| (lapByte sbox half (i + d)).setWidth 64) d = lapByte sbox half i := by
  induction d with
  | zero => exact byte_lapLoop_or sbox half h 0
  | succ d ih =>
    rw [byte_lapLoop_or sbox half h, if_neg (Nat.succ_ne_zero d), ← Nat.add_assoc,
      lapLoop_succ_of_lt sbox half (by omega), byte_shiftLeft_succ _ (by omega)]
    exact ih (by omega)

/-- The accumulation reverses the byte order (41_round_functions.md R121). -/
theorem byte_lapLoop_eight {j : Nat} (hj : j < 8) : byte (lapLoop sbox half 8) (7 - j) = lapByte sbox half j := by
  obtain ⟨d, hd⟩ := Nat.exists_eq_add_of_le (Nat.le_of_lt_succ hj)
  rw [lapLoop_eight, hd, Nat.add_sub_cancel_left]
  exact byte_lapLoop_or_add sbox half j d (by omega)

/-- With byte 0 empty the sum `acc + j` does not wrap (41_round_functions.md R121). -/
theorem lapLoop_toNat_add_lt {j : Nat} (hj : j < 8) : (lapLoop sbox half j).toNat + j < 2 ^ 64 := by
  have hbyte := congrArg BitVec.toNat (byte_lapLoop_zero sbox half hj)
  have hlow : (lapLoop sbox half j).toNat % 256 = 0 := by simpa [byte, lane] using hbyte
  have hlt := (lapLoop sbox half j).isLt
  omega

/-- With word rotation amount 0 the accumulator cancels against itself (41_round_functions.md R121). -/
theorem lapRound_of_amount_zero (sk : Word) (h : (lapLoop sbox half 8).toNat % 63 = 0) :
    lapRound sbox half sk = sk := by
  have hround : lapRound sbox half sk = (lapLoop sbox half 8 ^^^ rotr (lapLoop sbox half 8) 0) ^^^ sk := by
    rw [← h]
    rfl
  rw [hround, rotr_zero, BitVec.xor_self, BitVec.zero_xor]

end

/-- Under the identity table the accumulator of the zero half is 0 (41_round_functions.md R121). -/
theorem lapLoop_id_zero : lapLoop id 0 8 = 0 := by
  apply word_ext_bytes
  intro i hi
  obtain ⟨j, hj, rfl⟩ : ∃ j, j < 8 ∧ i = 7 - j := ⟨7 - i, by omega, by omega⟩
  rw [byte_lapLoop_eight id 0 hj]
  simp [lapByte]

/-- Settles O40: the loop by its equation, the corners from the bytes of the accumulator before and after each OR. -/
theorem lapplandRoundCorners : Obligations.LapplandRoundCorners := by
  refine ⟨fun sbox half => ⟨⟨rfl, fun j _ => ⟨_, rfl, lapLoop_succ sbox half j⟩, fun sk acc hacc => ?_⟩,
    fun j => lapLoop_toNat_add_lt sbox half, fun j _ => byte_lapLoop_zero sbox half,
    fun j _ => Nat.le_of_lt_succ (Nat.mod_lt _ (by decide)), rfl, rotl_zero,
    fun j => byte_lapLoop_eight sbox half, Nat.le_of_lt_succ (Nat.mod_lt _ (by decide)),
    lapRound_of_amount_zero sbox half⟩, fun sk => ?_⟩
  · rw [hacc]
    rfl
  · exact lapRound_of_amount_zero id 0 sk (by rw [lapLoop_id_zero]; rfl)

/-! ### MisRound -/

/-- A word with the substituted bytes is the substituted word (41_round_functions.md R124). -/
theorem eq_misSubst {sbox : Byte → Byte} {half h : Word} (hbytes : ∀ j, j < 8 → byte h j = sbox (byte half j)) :
    h = misSubst sbox half :=
  word_ext_bytes fun j hj => by rw [hbytes j hj, byte_misSubst sbox half hj]

/-- Settles O41: the word with the substituted bytes is the one MisRound works on. -/
theorem misakaRoundFormula : Obligations.MisakaRoundFormula := by
  intro sbox half sk h hbytes
  rw [eq_misSubst hbytes]
  rfl

end Sys2Proof.Machine
end

section
/-! The cipher adapter: its two directions as inverses of each other, and what a command does to the subkey file
(42_cipher_adapter.md R151, R153). -/

namespace Sys2Proof.Machine

/-- The network on a block is undone by the network in the other direction (40_feistel.md R101, R104). -/
theorem feistelBlock_feistelBlock_not (F : Word → Word → Word) (ks : List Word) (b : Block) (inv : Bool) :
    feistelBlock F ks (feistelBlock F ks b inv) (!inv) = b := by
  simp only [feistelBlock, w0_blk, w1_blk]
  rw [feistelInvertible 64 F ks (w0 b) (w1 b) inv]
  exact blk_w0_w1 b

/-- Under CSEL = 0 the adapter is the bare network (42_cipher_adapter.md R150). -/
theorem adapter_lappland (T : Tables) (k0 k1 : Word) (b : Block) (inv : Bool) :
    adapter T false k0 k1 b inv = feistelBlock (lapRound T.sboxL) (schedule false k0 k1).toList b inv := rfl

/-- Under CSEL = 1 the adapter is the network between two whitenings (42_cipher_adapter.md R150, R152). -/
theorem adapter_misaka (T : Tables) (k0 k1 : Word) (b : Block) (inv : Bool) :
    adapter T true k0 k1 b inv =
      whiten (feistelBlock (misRound T.sboxM) (schedule true k0 k1).toList (whiten b k0 k1) inv) k0 k1 := rfl

/-- Settles O49: the networks of the two calls undo each other, and for MISAKA the output whitening of the first call
cancels the input whitening of the second. -/
theorem adapterInvertible : Obligations.AdapterInvertible := by
  intro T csel k0 k1 b inv
  cases csel with
  | false => rw [adapter_lappland, adapter_lappland, feistelBlock_feistelBlock_not]
  | true => rw [adapter_misaka, adapter_misaka, whiten_whiten, feistelBlock_feistelBlock_not, whiten_whiten]

/-! ### The subkey file -/

@[simp] theorem kschedEffect_sk (s : State) : (kschedEffect s).sk = schedule s.csel s.key0 s.key1 := rfl

@[simp] theorem cipherEffect_sk (T : Tables) (inv : Bool) (s : State) :
    (cipherEffect T inv s).sk = schedule s.csel s.key0 s.key1 := rfl

@[simp] theorem roundEffect_sk (T : Tables) (s : State) : (roundEffect T s).sk = s.sk := rfl

@[simp] theorem encipherLink_sk (T : Tables) (p : Block) (s : State) :
    (encipherLink T p s).sk = schedule s.csel s.key0 s.key1 := rfl

/-- A second link of the encrypt chain writes the same schedule (42_cipher_adapter.md R151). -/
@[simp] theorem encipherLink_schedule (T : Tables) (p : Block) (s : State) :
    schedule (encipherLink T p s).csel (encipherLink T p s).key0 (encipherLink T p s).key1 =
      schedule s.csel s.key0 s.key1 := rfl

@[simp] theorem decDataBody_sk (T : Tables) (last : Bool) (s : State) :
    (decDataBody T last s).sk = schedule s.csel s.key0 s.key1 := rfl

/-- The commands whose success writes the whole schedule to SK: KSCHED and those that call the adapter; the boundary end
without a pad block enciphers nothing (41_round_functions.md R130, 42_cipher_adapter.md R151). -/
def WritesSchedule (i : Instr) (s : State) : Prop :=
  i = .ksched ∨ (∃ inv, i = .cipher inv) ∨ i = .encStart ∨
    (∃ n last, i = .encData n last ∧ (n ≠ 0 ∨ s.apad = true)) ∨ ∃ n last, i = .decData n last ∧ n ≠ 0

/-- A success leaves the schedule of the key in SK, or is of a command outside `WritesSchedule` and holds SK. -/
theorem Succeeds.sk {i : Instr} {s t : State} (h : Succeeds i s t) :
    t.sk = schedule s.csel s.key0 s.key1 ∨ (t.sk = s.sk ∧ ¬WritesSchedule i s) := by
  cases h with
  | ksched => exact .inl (kschedEffect_sk s)
  | cipher => exact .inl (cipherEffect_sk ..)
  | encStart => exact .inl (by simp)
  | encOne => exact .inl (by simp)
  | encTwo _ _ s1 s2 h1 h2 => exact .inl (by simp [h1, h2])
  | decOne => exact .inl (by simp)
  | feistel => exact .inr ⟨setOutput_sk .., by simp [WritesSchedule]⟩
  | round => exact .inr ⟨roundEffect_sk .., by simp [WritesSchedule]⟩
  | encNone _ _ ha => exact .inr ⟨by simp, by simp [WritesSchedule, ha]⟩
  | decStart => exact .inr ⟨by simp, by simp [WritesSchedule]⟩
  | decNone => exact .inr ⟨by simp, by simp [WritesSchedule]⟩

/-- A command leaves the schedule of the key in SK, or holds SK: a command outside `WritesSchedule`, or one in ERROR
or entering it. -/
theorem exec_sk {i : Instr} {s t : State} (h : exec i s = .next t) :
    t.sk = schedule s.csel s.key0 s.key1 ∨
      (t.sk = s.sk ∧ (s.fsm = .error ∨ t.fsm = .error ∨ ¬WritesSchedule i s)) := by
  rcases exec_cases h with ⟨herr, -, rfl⟩ | ⟨rfl, rfl⟩ | ⟨-, x, -, rfl⟩ | ⟨-, -, -, hok⟩
  · exact .inr ⟨rfl, .inl herr⟩
  · exact .inr ⟨leaveError_sk s, .inr (.inr (by simp [WritesSchedule]))⟩
  · exact .inr ⟨errorEntry_sk .., .inr (.inl (errorEntry_fsm ..))⟩
  · exact hok.sk.imp_right fun ⟨hsk, hno⟩ => ⟨hsk, .inr (.inr hno)⟩

/-- Settles O35: `exec_sk`, whose three reasons to hold SK are all excluded in the second clause. -/
theorem subkeysAreHeldOrScheduled : Obligations.SubkeysAreHeldOrScheduled := by
  refine ⟨fun i s t h => (exec_sk h).symm.imp_left And.left, fun i s t h hs ht hi => (exec_sk h).resolve_right ?_⟩
  rintro ⟨-, herr | herr | hno⟩
  · exact hs herr
  · exact ht herr
  · exact hno hi

end Sys2Proof.Machine
end

section
/-! Streams, command by command: the blocks a state holds after each update, the stream state and the chaining vector
after each command (43_cbc_mode.md R170, R172). -/

namespace Sys2Proof.Machine

/-! ### The blocks of a state after each update -/

@[simp] theorem errorEntry_chainBlock (x : Err) (v : Word) (s : State) :
    (errorEntry x v s).chainBlock = s.chainBlock := rfl

@[simp] theorem setOutput_chainBlock (a b : Block) (k : Nat) (s : State) :
    (setOutput a b k s).chainBlock = s.chainBlock := rfl

@[simp] theorem setFsm_chainBlock (f : Fsm) (s : State) : (setFsm f s).chainBlock = s.chainBlock := rfl

@[simp] theorem finishIf_chainBlock (last : Bool) (s : State) : (finishIf last s).chainBlock = s.chainBlock := by
  simp only [State.chainBlock, finishIf_cv0, finishIf_cv1]

@[simp] theorem setOutput_outBlock0 (a b : Block) (k : Nat) (s : State) : (setOutput a b k s).outBlock0 = a :=
  blk_w0_w1 a

@[simp] theorem setOutput_outBlock1 (a b : Block) (k : Nat) (s : State) : (setOutput a b k s).outBlock1 = b :=
  blk_w0_w1 b

@[simp] theorem setFsm_outBlock0 (f : Fsm) (s : State) : (setFsm f s).outBlock0 = s.outBlock0 := rfl

@[simp] theorem finishIf_outBlock0 (last : Bool) (s : State) : (finishIf last s).outBlock0 = s.outBlock0 := by
  simp only [State.outBlock0, finishIf_dout0, finishIf_dout1]

@[simp] theorem finishIf_outBlock1 (last : Bool) (s : State) : (finishIf last s).outBlock1 = s.outBlock1 := by
  simp only [State.outBlock1, finishIf_dout2, finishIf_dout3]

@[simp] theorem kschedEffect_chainBlock (s : State) : (kschedEffect s).chainBlock = s.chainBlock := rfl

@[simp] theorem cipherEffect_chainBlock (T : Tables) (inv : Bool) (s : State) :
    (cipherEffect T inv s).chainBlock = s.chainBlock := rfl

@[simp] theorem roundEffect_chainBlock (T : Tables) (s : State) : (roundEffect T s).chainBlock = s.chainBlock := rfl

/-- DEC_DATA chains on the block it consumes (43_cbc_mode.md R196). -/
@[simp] theorem decDataBody_chainBlock (T : Tables) (last : Bool) (s : State) :
    (decDataBody T last s).chainBlock = s.inputBlock := by
  simp [decDataBody]

/-- DEC_DATA recovers `D(C) XOR CV` (43_cbc_mode.md R196). -/
@[simp] theorem decDataBody_outBlock0 (T : Tables) (last : Bool) (s : State) :
    (decDataBody T last s).outBlock0 = s.crypt T s.inputBlock true ^^^ s.chainBlock :=
  setOutput_outBlock0 ..

@[simp] theorem encipherLink_fsm (T : Tables) (p : Block) (s : State) : (encipherLink T p s).fsm = s.fsm := rfl

@[simp] theorem decDataBody_fsm (T : Tables) (last : Bool) (s : State) : (decDataBody T last s).fsm = s.fsm := rfl

/-- Enciphering reads CSEL and KEY only, which a link of the encrypt chain does not write. -/
@[simp] theorem encipherLink_crypt (T : Tables) (p : Block) (s : State) (b : Block) (inv : Bool) :
    (encipherLink T p s).crypt T b inv = s.crypt T b inv := rfl

/-! ### The stream state -/

/-- A success of a command leads where the stream table says (43_cbc_mode.md R170). -/
theorem Succeeds.fsm {i : Instr} {s t : State} (h : Succeeds i s t) : t.fsm = fsmAfter i s.fsm := by
  cases h with
  | ksched => rfl
  | feistel => rfl
  | cipher => rfl
  | round => rfl
  | encStart => rfl
  | encOne hf => simp [finishIf_fsm, fsmAfter, hf]
  | encTwo => rfl
  | encNone hf => simp [finishIf_fsm, fsmAfter, hf]
  | decStart => rfl
  | decNone => rfl
  | decOne hf => simp [finishIf_fsm, fsmAfter, hf]

/-- Settles O33: ERROR ignores the command, CLEAR leads to IDLE, an error entry is the one `errorOf` names, and a
success follows the table by `Succeeds.fsm`. -/
theorem streamStateFollowsTable : Obligations.StreamStateFollowsTable := by
  intro i s
  obtain ⟨t, h⟩ := exec_next i s
  refine ⟨t, h, ?_⟩
  rcases exec_cases h with ⟨herr, hi, rfl⟩ | ⟨rfl, rfl⟩ | ⟨hlive, x, hx, rfl⟩ | ⟨hlive, hi, hnone, hok⟩
  · exact ⟨fun _ _ => rfl, fun _ hlive => absurd herr hlive, fun hlive => absurd herr hlive, fun hc => absurd hc hi⟩
  · exact ⟨fun _ hi => absurd rfl hi, fun _ _ hx => absurd hx (Option.some_ne_none _).symm, fun _ _ => rfl,
      fun _ => rfl⟩
  · refine ⟨fun herr => absurd herr hlive, fun y _ hy => ?_, fun _ hnone => ?_, fun hc => ?_⟩
    · obtain rfl : x = y := Option.some.inj (hx.symm.trans hy)
      rfl
    · exact absurd (hx.symm.trans hnone) (Option.some_ne_none _)
    · subst hc
      exact absurd hx (Option.some_ne_none _).symm
  · exact ⟨fun herr => absurd herr hlive, fun _ _ hx => absurd (hnone.symm.trans hx) (Option.some_ne_none _).symm,
      fun _ _ => hok.fsm, fun hc => absurd hc hi⟩

/-! ### The chaining vector -/

/-- A command other than CLEAR that starts and ends outside ERROR has succeeded. -/
theorem succeeds_of_exec {i : Instr} {s t : State} (h : exec i s = .next t) (hi : i ≠ .clear) (hs : s.fsm ≠ .error)
    (ht : t.fsm ≠ .error) : Succeeds i s t := by
  rcases exec_cases h with ⟨herr, -, -⟩ | ⟨hc, -⟩ | ⟨-, x, -, rfl⟩ | ⟨-, -, -, hok⟩
  · exact absurd herr hs
  · exact absurd hc hi
  · exact absurd (errorEntry_fsm ..) ht
  · exact hok

/-- A success does not lead into ERROR (60_exceptions.md R236). -/
theorem Succeeds.fsm_ne_error {i : Instr} {s t : State} (h : Succeeds i s t) (hs : s.fsm ≠ .error) :
    t.fsm ≠ .error := by
  rw [h.fsm]
  cases h with
  | ksched => exact hs
  | feistel => exact hs
  | cipher => exact hs
  | round => exact hs
  | encStart => exact Fsm.noConfusion
  | encOne | encNone | decStart | decOne => simp only [fsmAfter]; split <;> exact Fsm.noConfusion
  | encTwo => exact Fsm.noConfusion
  | decNone => exact Fsm.noConfusion

/-- ENC_START chains on the enciphered IV, which it emits (43_cbc_mode.md R172, R180). -/
theorem exec_encStart_chainBlock {s t : State} (h : exec .encStart s = .next t) (hs : s.fsm ≠ .error)
    (ht : t.fsm ≠ .error) :
    t.chainBlock = t.outBlock0 ∧
      t.chainBlock = s.crypt Config.tables (blk (entropyWords s).1 (entropyWords s).2) false := by
  cases succeeds_of_exec h Instr.noConfusion hs ht with
  | encStart _ c hc => simp [← hc]

/-- ENC_DATA chains on the block it emits last, and on the old chaining vector when it emits none
(43_cbc_mode.md R172, R186). -/
theorem exec_encData_chainBlock {s t : State} {n : Nat} {last : Bool} (h : exec (.encData n last) s = .next t)
    (hs : s.fsm ≠ .error) (ht : t.fsm ≠ .error) :
    ∃ p : Block, p = (if n = 16 then s.inputBlock else pad s.inputBlock n) ∧
      ((t.olen.val = 16 ∧ t.chainBlock = t.outBlock0 ∧
          t.outBlock0 = s.crypt Config.tables (p ^^^ s.chainBlock) false) ∨
        (t.olen.val = 32 ∧ n = 16 ∧ last = true ∧ s.apad = true ∧
          t.outBlock0 = s.crypt Config.tables (p ^^^ s.chainBlock) false ∧ t.chainBlock = t.outBlock1 ∧
          t.outBlock1 = s.crypt Config.tables (pad s.inputBlock 0 ^^^ t.outBlock0) false) ∨
        (t.olen.val = 0 ∧ n = 0 ∧ s.apad = false ∧ t.chainBlock = s.chainBlock)) := by
  refine ⟨_, rfl, ?_⟩
  cases succeeds_of_exec h Instr.noConfusion hs ht with
  | encOne _ _ _ p hp => exact .inl (by simp [← hp])
  | encTwo _ ha s1 s2 h1 h2 => exact .inr (.inl (by simp [h1, h2, ha]))
  | encNone _ _ ha => exact .inr (.inr (by simp [ha]))

/-- The commands of R172 that are no stream blocks keep the chaining vector, and so does an error entry. -/
theorem exec_keeps_chainBlock {i : Instr} {s t : State} (h : exec i s = .next t)
    (hi : i = .ksched ∨ (∃ inv nr, i = .feistel inv nr) ∨ (∃ inv, i = .cipher inv) ∨ i = .round ∨ t.fsm = .error) :
    t.chainBlock = s.chainBlock := by
  rcases exec_cases h with ⟨-, -, rfl⟩ | ⟨rfl, rfl⟩ | ⟨-, x, -, rfl⟩ | ⟨hlive, -, -, hok⟩
  · rfl
  · simp at hi
  · exact errorEntry_chainBlock ..
  · have ht := hok.fsm_ne_error hlive
    rcases hi with rfl | ⟨inv, nr, rfl⟩ | ⟨inv, rfl⟩ | rfl | herr
    · cases hok
      exact kschedEffect_chainBlock s
    · cases hok
      exact setOutput_chainBlock ..
    · cases hok
      exact cipherEffect_chainBlock ..
    · cases hok
      exact roundEffect_chainBlock ..
    · exact absurd herr ht

/-- Settles O34: one lemma per kind of command, from the successes of `exec_cases`. -/
theorem chainVectorIsCiphertext : Obligations.ChainVectorIsCiphertext := by
  refine ⟨fun s t h ht hs => ?_, fun s t n last hs h ht => ?_, fun s t n last hs h ht => ?_,
    fun s t n last hs h ht => ?_, fun i s t => exec_keeps_chainBlock⟩
  · have hlive : s.fsm ≠ .error := fun herr => by
      rw [exec_error herr Instr.noConfusion] at h
      exact hs (Host.Outcome.next.inj h ▸ ht)
    exact exec_encStart_chainBlock h hlive (by simp [ht])
  · exact exec_encData_chainBlock h (by simp [hs]) ht
  · cases succeeds_of_exec h Instr.noConfusion hs ht with
    | decStart => simp
  · cases succeeds_of_exec h Instr.noConfusion (by simp [hs]) ht with
    | decNone => simp
    | decOne => simp

end Sys2Proof.Machine
end

section
/-! Padding and the pad check, byte by byte (43_cbc_mode.md R176, R177). -/

namespace Sys2Proof.Machine

/-- The full pad block does not depend on what is padded (43_cbc_mode.md R176). -/
theorem pad_zero (p : Block) : pad p 0 = 0x10101010101010101010101010101010 := by
  have hconst : ∀ i < 16, byte (0x10101010101010101010101010101010 : Block) i = 0x10 := by decide
  apply block_ext_bytes
  intro i hi
  rw [byte_pad p 0 hi, hconst i hi]
  rfl

/-- Settles O55: the bytes by `byte_pad`, the full pad block by `pad_zero`. -/
theorem padKeepsPrefixAndFills : Obligations.PadKeepsPrefixAndFills :=
  ⟨fun p n _ _ hi => byte_pad p n hi, pad_zero⟩

/-- The pad check for a count that is a byte: the last p bytes have the value p (43_cbc_mode.md R177). -/
theorem padValid_iff (b : Block) {p : Nat} (hp : p < 256) :
    padValid b p = true ↔ 1 ≤ p ∧ p ≤ 16 ∧ ∀ i, 16 - p ≤ i → i ≤ 15 → (byte b i).toNat = p := by
  have hbyte : ∀ i, byte b i = BitVec.ofNat 8 p ↔ (byte b i).toNat = p := fun i => by
    rw [← BitVec.toNat_inj, BitVec.toNat_ofNat, Nat.mod_eq_of_lt hp]
  simp only [padValid, Bool.and_eq_true, Bool.or_eq_true, decide_eq_true_eq, List.all_eq_true, List.mem_range,
    beq_iff_eq, hbyte, and_assoc]
  refine and_congr_right fun _ => and_congr_right fun _ => forall_congr' fun i => ?_
  constructor
  · intro h hlo hhi
    exact (h (by omega)).resolve_left (by omega)
  · intro h hi
    by_cases hlo : i < 16 - p
    · exact .inl hlo
    · exact .inr (h (by omega) (by omega))

/-- StripLen is the last byte when the pad check passes (43_cbc_mode.md R177). -/
theorem stripLen_of_padValid {b : Block} {p : Nat} (hp : p = (byte b 15).toNat) (h : padValid b p = true) :
    stripLen b = p := by
  subst hp
  exact if_pos h

/-- StripLen is 0 when the pad check fails (43_cbc_mode.md R177). -/
theorem stripLen_of_not_padValid {b : Block} {p : Nat} (hp : p = (byte b 15).toNat) (h : ¬padValid b p = true) :
    stripLen b = 0 := by
  subst hp
  exact if_neg h

/-- Settles O56: StripLen branches on the pad check, which is `padValid_iff`. -/
theorem stripLenFollowsTheCheck : Obligations.StripLenFollowsTheCheck := by
  intro b p hp
  have hcheck := padValid_iff b (p := p) (by omega)
  exact ⟨fun h => stripLen_of_padValid hp (hcheck.2 h), fun h => stripLen_of_not_padValid hp (mt hcheck.1 h)⟩

/-- Stripping a padded block removes exactly the pad (43_cbc_mode.md R176, R177). -/
theorem stripLen_pad (p : Block) {n : Nat} (hn : n ≤ 15) : stripLen (pad p n) = 16 - n := by
  have hfill : ∀ i, n ≤ i → i ≤ 15 → (byte (pad p n) i).toNat = 16 - n := fun i hlo hhi => by
    rw [byte_pad p n (by omega), if_neg (by omega), BitVec.toNat_ofNat]
    omega
  refine stripLen_of_padValid (hfill 15 hn le_rfl).symm ((padValid_iff _ (by omega)).2 ⟨by omega, by omega, ?_⟩)
  exact fun i hlo hhi => hfill i (by omega) hhi

end Sys2Proof.Machine
end

section
/-! Byte lists and blocks: the bytes of a block and of the output area, the blocks a host loads, and the pulls from a
byte source (00_scope.md R9, R10; 10_state.md R29; 43_cbc_mode.md R187). -/

namespace Sys2Proof.Machine

/-! ### The bytes of a block -/

@[simp] theorem length_bytesOf {n : Nat} (count : Nat) (x : BitVec n) : (bytesOf count x).length = count := by
  simp [bytesOf]

theorem getElem_bytesOf {n : Nat} {count i : Nat} (x : BitVec n) (h : i < (bytesOf count x).length) :
    (bytesOf count x)[i] = byte x i := by
  simp [bytesOf]

/-- A shorter byte list is the start of a longer one. -/
theorem take_bytesOf {n : Nat} {k count : Nat} (h : k ≤ count) (x : BitVec n) :
    (bytesOf count x).take k = bytesOf k x := by
  rw [bytesOf, ← List.map_take, List.take_range, min_eq_left h, bytesOf]

/-- A byte list is that of a block with the same bytes. -/
theorem bytesOf_eq {b : Block} {bs : List Byte} (h : ∀ (i : Nat) (hi : i < bs.length), byte b i = bs[i]) :
    bytesOf bs.length b = bs := by
  apply List.ext_getElem (length_bytesOf ..)
  intro i _ hi
  rw [getElem_bytesOf, h i hi]

/-- The bytes of a block the host loads: those it has, and `fill` beyond them (log 21). -/
theorem byte_blockOf (fill : Block) (bs : List Byte) {i : Nat} (hi : i < 16) :
    byte (blockOf fill bs) i = bs.getD i (byte fill i) :=
  byte_ofBytes _ hi (by omega)

/-- A loaded block of 16 bytes is the block with those bytes. -/
@[simp] theorem blockOf_bytesOf (fill b : Block) : blockOf fill (bytesOf 16 b) = b := by
  apply block_ext_bytes
  intro i hi
  rw [byte_blockOf fill _ hi, List.getD_eq_getElem _ _ (by simpa using hi), getElem_bytesOf]

/-- With no byte pulled DIN holds `fill` (log 21). -/
@[simp] theorem blockOf_nil (fill : Block) : blockOf fill [] = fill := by
  apply block_ext_bytes
  intro i hi
  rw [byte_blockOf fill _ hi, List.getD_nil]

/-- The bytes of a loaded block of 16 bytes. -/
theorem bytesOf_blockOf (fill : Block) {bs : List Byte} (h : bs.length = 16) : bytesOf 16 (blockOf fill bs) = bs := by
  rw [← h]
  exact bytesOf_eq fun i hi => by rw [byte_blockOf fill bs (by omega), List.getD_eq_getElem _ _ hi]

/-- Padding keeps the bytes pulled (43_cbc_mode.md R176). -/
theorem bytesOf_pad_blockOf (fill : Block) {bs : List Byte} (h : bs.length < 16) :
    bytesOf bs.length (pad (blockOf fill bs) bs.length) = bs :=
  bytesOf_eq fun i hi => by
    rw [byte_pad _ _ (by omega), if_pos hi, byte_blockOf fill bs (by omega), List.getD_eq_getElem _ _ hi]

/-! ### The output bytes -/

/-- The output area is output block 1 above output block 0 (10_state.md R29, R34). -/
theorem byte_outArea (s : State) {i : Nat} (hi : i < 16) :
    byte s.outArea i = byte s.outBlock0 i ∧ byte s.outArea (16 + i) = byte s.outBlock1 i := by
  constructor <;> apply BitVec.eq_of_getLsbD_eq <;> intro k hk <;>
    simp only [getLsbD_byte, State.outArea, State.outBlock0, State.outBlock1, getLsbD_blk, BitVec.getLsbD_append]
  · by_cases hlow : 8 * i + k < 64
    · simp [hlow]
    · simp [hlow, show 8 * i + k - 64 < 64 by omega]
  · have h0 : ¬8 * (16 + i) + k < 64 := by omega
    have h1 : ¬8 * (16 + i) + k - 64 < 64 := by omega
    have h2 : 8 * (16 + i) + k - 64 - 64 = 8 * i + k := by omega
    simp [h0, h1, h2]

/-- Up to 16 output bytes are those of output block 0 (10_state.md R29). -/
theorem output_of_le {s : State} (h : s.olen.val ≤ 16) : s.output = bytesOf s.olen.val s.outBlock0 :=
  List.map_congr_left fun i hi => (byte_outArea s (by rw [List.mem_range] at hi; omega)).1

/-- 32 output bytes are those of output block 0 and then of output block 1 (10_state.md R29). -/
theorem output_of_two_blocks {s : State} (h : s.olen.val = 32) :
    s.output = bytesOf 16 s.outBlock0 ++ bytesOf 16 s.outBlock1 := by
  have hsplit : List.range 32 = List.range 16 ++ (List.range 16).map (16 + ·) := List.range_add (m := 16) (n := 16)
  rw [State.output, h, bytesOf, hsplit, List.map_append, List.map_map]
  exact congrArg₂ (· ++ ·)
    (List.map_congr_left fun i hi => (byte_outArea s (List.mem_range.1 hi)).1)
    (List.map_congr_left fun i hi => (byte_outArea s (List.mem_range.1 hi)).2)

theorem setOutput_output (a b : Block) {k : Nat} (h : k ≤ 16) (s : State) :
    (setOutput a b k s).output = bytesOf k a := by
  have hk : (setOutput a b k s).olen.val = k := Nat.mod_eq_of_lt (by omega)
  rw [output_of_le (hk.trans_le h), hk, setOutput_outBlock0]

theorem setOutput_output_two_blocks (a b : Block) (s : State) :
    (setOutput a b 32 s).output = bytesOf 16 a ++ bytesOf 16 b := by
  rw [output_of_two_blocks (s := setOutput a b 32 s) rfl, setOutput_outBlock0, setOutput_outBlock1]

@[simp] theorem setFsm_output (f : Fsm) (s : State) : (setFsm f s).output = s.output := rfl

@[simp] theorem finishIf_output (last : Bool) (s : State) : (finishIf last s).output = s.output := by
  unfold finishIf
  split <;> rfl

/-! ### Pulls -/

/-- The bytes of a list of blocks, in order. -/
def blockBytes (bs : List Block) : List Byte := bs.flatMap (bytesOf 16)

@[simp] theorem blockBytes_nil : blockBytes [] = [] := rfl

@[simp] theorem blockBytes_cons (b : Block) (bs : List Block) :
    blockBytes (b :: bs) = bytesOf 16 b ++ blockBytes bs := rfl

@[simp] theorem blockBytes_append (as bs : List Block) : blockBytes (as ++ bs) = blockBytes as ++ blockBytes bs :=
  List.flatMap_append

theorem blockBytes_concat (bs : List Block) (b : Block) : blockBytes (bs ++ [b]) = blockBytes bs ++ bytesOf 16 b := by
  simp

@[simp] theorem length_blockBytes (bs : List Block) : (blockBytes bs).length = 16 * bs.length := by
  induction bs with
  | nil => rfl
  | cons b bs ih =>
    rw [blockBytes_cons, List.length_append, length_bytesOf, ih, List.length_cons]
    omega

/-- Every byte list is whole blocks and a tail of 0 to 15 bytes. -/
theorem exists_blocks (bs : List Byte) : ∃ blocks tail, tail.length < 16 ∧ bs = blockBytes blocks ++ tail := by
  by_cases h : bs.length < 16
  · exact ⟨[], bs, h, rfl⟩
  · obtain ⟨blocks, tail, htail, hrest⟩ := exists_blocks (bs.drop 16)
    refine ⟨blockOf 0 (bs.take 16) :: blocks, tail, htail, ?_⟩
    have hlen : (bs.take 16).length = 16 := List.length_take_of_le (by omega)
    rw [blockBytes_cons, bytesOf_blockOf 0 hlen, List.append_assoc, ← hrest, List.take_append_drop]
termination_by bs.length
decreasing_by simp only [List.length_drop]; omega

@[simp] theorem pulls_nil : pulls [] = [] := rfl

/-- As many pulls as there are bytes are enough: more change nothing. -/
theorem pullsFuel_eq (f g : Nat) (bs : List Byte) (hf : bs.length ≤ f) (hg : bs.length ≤ g) :
    pullsFuel f bs = pullsFuel g bs := by
  induction f generalizing g bs with
  | zero =>
    obtain rfl : bs = [] := List.eq_nil_of_length_eq_zero (by omega)
    cases g <;> rfl
  | succ f ih =>
    cases bs with
    | nil => cases g <;> rfl
    | cons b bs =>
      obtain ⟨g, rfl⟩ : ∃ g', g = g' + 1 := ⟨g - 1, by rw [List.length_cons] at hg; omega⟩
      have hdrop : ((b :: bs).drop 16).length + 1 ≤ (b :: bs).length := by
        simp only [List.length_drop, List.length_cons]
        omega
      exact congrArg ((b :: bs).take 16 :: ·) (ih g _ (by omega) (by omega))

/-- One pull takes up to 16 bytes (43_cbc_mode.md R187). -/
theorem pulls_of_ne_nil {bs : List Byte} (h : bs ≠ []) : pulls bs = bs.take 16 :: pulls (bs.drop 16) := by
  cases bs with
  | nil => exact absurd rfl h
  | cons b bs => exact congrArg (_ :: ·) (pullsFuel_eq _ _ _ (by simp) le_rfl)

/-- Only an empty source gives no pull (43_cbc_mode.md R187). -/
@[simp] theorem pulls_eq_nil_iff {bs : List Byte} : pulls bs = [] ↔ bs = [] := by
  refine ⟨fun h => ?_, fun h => h ▸ rfl⟩
  by_contra hne
  rw [pulls_of_ne_nil hne] at h
  exact List.cons_ne_nil _ _ h

/-- The pulls from whole blocks and a tail: the blocks, and what the tail gives (43_cbc_mode.md R187). -/
theorem pulls_blockBytes_append (bs : List Block) (tail : List Byte) :
    pulls (blockBytes bs ++ tail) = bs.map (bytesOf 16) ++ pulls tail := by
  induction bs with
  | nil => rfl
  | cons b bs ih =>
    have hne : blockBytes (b :: bs) ++ tail ≠ [] := List.ne_nil_of_length_pos (by simp)
    have hlen := length_bytesOf 16 b
    rw [pulls_of_ne_nil hne, blockBytes_cons, List.append_assoc, List.take_left' hlen, List.drop_left' hlen, ih]
    rfl

/-- A short source gives one pull (43_cbc_mode.md R187). -/
theorem pulls_short {bs : List Byte} (hne : bs ≠ []) (h : bs.length ≤ 16) : pulls bs = [bs] := by
  rw [pulls_of_ne_nil hne, List.take_of_length_le h, List.drop_of_length_le h]
  rfl

end Sys2Proof.Machine
end

section
/-! CBC over blocks, and what the decrypt protocol recovers (43_cbc_mode.md R196 to R202). -/

namespace Sys2Proof.Machine

/-! ### CBC as a function of the blocks -/

/-- Cipher block chaining: each block is enciphered with the block enciphered before it, `v` at first
(43_cbc_mode.md R186). -/
def cbcEncipher (E : Block → Block) (v : Block) : List Block → List Block
  | [] => []
  | p :: ps => E (p ^^^ v) :: cbcEncipher E (E (p ^^^ v)) ps

/-- The inverse chaining: each block is deciphered with the block consumed before it, `v` at first
(43_cbc_mode.md R196). -/
def cbcDecipher (D : Block → Block) (v : Block) : List Block → List Block
  | [] => []
  | c :: cs => (D c ^^^ v) :: cbcDecipher D c cs

section
variable (E D : Block → Block)

@[simp] theorem cbcEncipher_cons (v p : Block) (ps : List Block) :
    cbcEncipher E v (p :: ps) = E (p ^^^ v) :: cbcEncipher E (E (p ^^^ v)) ps := rfl

@[simp] theorem cbcDecipher_cons (v c : Block) (cs : List Block) :
    cbcDecipher D v (c :: cs) = (D c ^^^ v) :: cbcDecipher D c cs := rfl

@[simp] theorem length_cbcDecipher (v : Block) (cs : List Block) : (cbcDecipher D v cs).length = cs.length := by
  induction cs generalizing v with
  | nil => rfl
  | cons c cs ih => exact congrArg (· + 1) (ih c)

@[simp] theorem isEmpty_cbcDecipher (v : Block) (cs : List Block) : (cbcDecipher D v cs).isEmpty = cs.isEmpty := by
  cases cs <;> rfl

/-- Deciphering undoes enciphering when the block functions do (43_cbc_mode.md R200). -/
theorem cbcDecipher_cbcEncipher (hinv : ∀ b, D (E b) = b) (v : Block) (ps : List Block) :
    cbcDecipher D v (cbcEncipher E v ps) = ps := by
  induction ps generalizing v with
  | nil => rfl
  | cons p ps ih => simp [hinv, ih]

/-- The recovered blocks before a ciphertext block, its own, and those after it. -/
theorem cbcDecipher_append_cons (v : Block) (before : List Block) (c : Block) (after : List Block) :
    cbcDecipher D v (before ++ c :: after) =
      cbcDecipher D v before ++ (D c ^^^ before.getLastD v) :: cbcDecipher D c after := by
  induction before generalizing v with
  | nil => rfl
  | cons b before ih => rw [List.cons_append, cbcDecipher_cons, ih, List.getLastD_cons]; rfl

/-- A change of the chaining vector changes the first recovered block by as much, and no other (43_cbc_mode.md R202). -/
theorem cbcDecipher_xor_chain (v m : Block) (cs : List Block) :
    cbcDecipher D (v ^^^ m) cs = (cbcDecipher D v cs).modifyHead (· ^^^ m) := by
  cases cs with
  | nil => rfl
  | cons c cs => exact congrArg (· :: cbcDecipher D c cs) (BitVec.xor_assoc ..).symm

end

/-- What the host emits of the recovered blocks: each whole, but the last without its pad
(43_cbc_mode.md R196, R198). -/
def unpadded : List Block → List Byte
  | [] => []
  | p :: ps => bytesOf (if ps.isEmpty then 16 - stripLen p else 16) p ++ unpadded ps

/-- The last of several recovered blocks loses its pad. -/
theorem unpadded_concat (ps : List Block) (p : Block) :
    unpadded (ps ++ [p]) = blockBytes ps ++ bytesOf (16 - stripLen p) p := by
  induction ps with
  | nil => exact List.append_nil _
  | cons q ps ih =>
    have hne : (ps ++ [p]).isEmpty = false := by simp
    rw [List.cons_append, unpadded, hne, ih, blockBytes_cons, List.append_assoc]
    rfl

/-! ### Runs of commands -/

section
variable (b : Option Block) (s : State)

@[simp] theorem loadDin_fsm : (loadDin b s).fsm = s.fsm := by cases b <;> rfl

@[simp] theorem loadDin_apad : (loadDin b s).apad = s.apad := by cases b <;> rfl

@[simp] theorem loadDin_chainBlock : (loadDin b s).chainBlock = s.chainBlock := by cases b <;> rfl

@[simp] theorem loadDin_crypt (T : Tables) (x : Block) (inv : Bool) :
    (loadDin b s).crypt T x inv = s.crypt T x inv := by cases b <;> rfl

@[simp] theorem loadDin_inputBlock (x : Block) : (loadDin (some x) s).inputBlock = x := blk_w0_w1 x

end

/-- A run is the state after its first command and the run of the others from there. -/
theorem runCommands_cons {i : Instr} {b : Option Block} {s t : State} (h : exec i (loadDin b s) = .next t)
    (cs : List HostCommand) : runCommands ((i, b) :: cs) s = (runCommands cs t).map (t :: ·) := by
  simp only [runCommands, h]

/-- A run of one command. -/
theorem runCommands_singleton {i : Instr} {b : Option Block} {s t : State} (h : exec i (loadDin b s) = .next t) :
    runCommands [(i, b)] s = some [t] :=
  runCommands_cons h []

@[simp] theorem emitted_nil : emitted [] = [] := rfl

@[simp] theorem emitted_cons (t : State) (trace : List State) : emitted (t :: trace) = t.output ++ emitted trace := rfl

/-! ### The decrypt protocol -/

/-- Each piece is one DEC_DATA, with LAST for the last one (43_cbc_mode.md R199). -/
theorem decryptPulls_cons (fill : Block) (c : List Byte) (cs : List (List Byte)) :
    decryptPulls fill (c :: cs) =
      (.decData c.length cs.isEmpty, some (blockOf fill c)) :: decryptPulls fill cs := by
  cases cs <;> rfl

/-- DEC_DATA 16 in DEC deciphers the block in DIN (43_cbc_mode.md R196). -/
theorem exec_decData_block {s : State} (h : s.fsm = .dec) (last : Bool) :
    exec (.decData 16 last) s = .next (finishIf last (decDataBody Config.tables last s)) := by
  simp [exec, execDecData, decDataEffect, h]

/-- DEC_DATA emits the recovered block, without its pad when LAST = 1 (43_cbc_mode.md R196, R198). -/
theorem decDataBody_output (T : Tables) (last : Bool) (s : State) :
    (decDataBody T last s).output =
      bytesOf (if last then 16 - stripLen (s.crypt T s.inputBlock true ^^^ s.chainBlock) else 16)
        (s.crypt T s.inputBlock true ^^^ s.chainBlock) :=
  setOutput_output _ _ (by split <;> omega) _

/-- Enciphering reads CSEL and KEY only, which DEC_DATA does not write. -/
@[simp] theorem decDataBody_crypt (T : Tables) (last : Bool) (s : State) (b : Block) (inv : Bool) :
    (decDataBody T last s).crypt T b inv = s.crypt T b inv := rfl

@[simp] theorem finishIf_crypt (T : Tables) (last : Bool) (s : State) (b : Block) (inv : Bool) :
    (finishIf last s).crypt T b inv = s.crypt T b inv := by
  unfold finishIf
  split <;> rfl

/-- The decrypt protocol on whole ciphertext blocks, from a state in DEC: DOUT holds the deciphered chain, and the host
emits it without the pad of its last block (43_cbc_mode.md R199). -/
theorem run_decryptPulls (fill : Block) {D : Block → Block} (cs : List Block) {s : State}
    (hD : ∀ b, s.crypt Config.tables b true = D b) (h : cs ≠ [] → s.fsm = .dec) :
    ∃ trace, runCommands (decryptPulls fill (cs.map (bytesOf 16))) s = some trace ∧
      trace.map State.outBlock0 = cbcDecipher D s.chainBlock cs ∧
      emitted trace = unpadded (cbcDecipher D s.chainBlock cs) := by
  induction cs generalizing s with
  | nil => exact ⟨[], rfl, rfl, rfl⟩
  | cons c cs ih =>
    have hdec : (loadDin (some c) s).fsm = .dec := by simp [h]
    have hexec := exec_decData_block hdec cs.isEmpty
    generalize ht : finishIf cs.isEmpty (decDataBody Config.tables cs.isEmpty (loadDin (some c) s)) = t at hexec
    have hchain : t.chainBlock = c := by simp [← ht]
    have hnext : cs ≠ [] → t.fsm = .dec := fun hne => by simp [← ht, finishIf_fsm, hne, h]
    obtain ⟨trace, hrun, hblocks, hbytes⟩ := ih (s := t) (fun b => by simp [← ht, hD]) hnext
    rw [hchain] at hblocks hbytes
    refine ⟨t :: trace, ?_, ?_, ?_⟩
    · rw [List.map_cons, decryptPulls_cons, length_bytesOf, blockOf_bytesOf, List.isEmpty_map, runCommands_cons hexec,
        hrun]
      rfl
    · rw [List.map_cons, hblocks, cbcDecipher_cons]
      simp [← ht, hD]
    · rw [emitted_cons, hbytes, cbcDecipher_cons, unpadded, isEmpty_cbcDecipher]
      simp [← ht, hD, decDataBody_output]

/-- The blocks DOUT holds in the decrypt protocol are the deciphered chain (43_cbc_mode.md R199). -/
theorem decryptPulls_outBlocks (fill : Block) {s : State} (h : s.fsm = .dec) (cs : List Block) :
    (runCommands (decryptPulls fill (cs.map (bytesOf 16))) s).map (List.map State.outBlock0) =
      some (cbcDecipher (s.crypt Config.tables · true) s.chainBlock cs) := by
  obtain ⟨trace, hrun, hblocks, -⟩ := run_decryptPulls fill cs (fun _ => rfl) fun _ => h
  rw [hrun, Option.map_some, hblocks]

/-- Settles O58: the recovered blocks are the deciphered chain, split at block i; the changed block is the chaining
vector of what follows. -/
theorem ciphertextChangePropagates : Obligations.CiphertextChangePropagates := by
  intro fill s before after c m h
  simp only [decryptPulls_outBlocks fill h, cbcDecipher_append_cons, cbcDecipher_xor_chain]
  exact ⟨_, _, _, _, rfl, rfl, length_cbcDecipher .., length_cbcDecipher .., rfl, rfl⟩

end Sys2Proof.Machine
end

section
/-! The encrypt protocol, and decrypting what it emits (43_cbc_mode.md R187, R199 to R201). -/

namespace Sys2Proof.Machine

/-! ### ENC_DATA, case by case -/

@[simp] theorem setOutput_crypt (T : Tables) (a b : Block) (k : Nat) (s : State) (x : Block) (inv : Bool) :
    (setOutput a b k s).crypt T x inv = s.crypt T x inv := rfl

@[simp] theorem encipherLink_apad (T : Tables) (p : Block) (s : State) : (encipherLink T p s).apad = s.apad := rfl

/-- ENC_DATA in ENC with a legal LEN runs its cases (43_cbc_mode.md R186). -/
theorem exec_encData {s : State} {n : Nat} {last : Bool} (h : s.fsm = .enc) (hn : n ≤ 16)
    (hlast : n = 16 ∨ last = true) :
    exec (.encData n last) s = .next (finishIf last (encDataBody Config.tables n last s)) := by
  rcases encDataEffect_cases Config.tables n last (encode (.encData n last)) s with
    ⟨hne, -⟩ | ⟨-, hbad, -⟩ | ⟨-, -, -, heff⟩
  · exact absurd h hne
  · rcases hbad with hbig | ⟨hlt, hfalse⟩
    · omega
    · rcases hlast with h16 | htrue
      · omega
      · exact absurd (htrue.symm.trans hfalse) Bool.noConfusion
  · have hlive : s.fsm ≠ .error := by simp [h]
    exact congrArg Host.Outcome.next ((unlessError_of_live hlive).trans heff)

section
variable (T : Tables) (s : State)

/-- Case (a): a whole block, and no pad block after it (43_cbc_mode.md R186). -/
theorem encDataBody_whole {last : Bool} (h : (last && s.apad) = false) :
    encDataBody T 16 last s =
      setOutput (encipherLink T s.inputBlock s).chainBlock 0 16 (encipherLink T s.inputBlock s) := by
  simp [encDataBody, h]

/-- Case (c): a whole last block, and the pad block (43_cbc_mode.md R186). -/
theorem encDataBody_whole_padded (h : s.apad = true) :
    encDataBody T 16 true s =
      setOutput (encipherLink T s.inputBlock s).chainBlock
        (encipherLink T (pad s.inputBlock 0) (encipherLink T s.inputBlock s)).chainBlock 32
        (encipherLink T (pad s.inputBlock 0) (encipherLink T s.inputBlock s)) := by
  simp [encDataBody, h]

/-- Cases (b) and (d): a padded block (43_cbc_mode.md R186). -/
theorem encDataBody_padded {n : Nat} {last : Bool} (hn : n < 16) (h : n ≠ 0 ∨ s.apad = true) :
    encDataBody T n last s =
      setOutput (encipherLink T (pad s.inputBlock n) s).chainBlock 0 16 (encipherLink T (pad s.inputBlock n) s) := by
  have hne : n ≠ 16 := by omega
  by_cases h0 : n = 0
  · subst h0
    simp [encDataBody, h.resolve_left (by simp)]
  · have h1 : 1 ≤ n := by omega
    simp [encDataBody, hne, h1]

/-- Case (d) under the reference policy: nothing is enciphered (43_cbc_mode.md R186). -/
theorem encDataBody_empty {last : Bool} (h : s.apad = false) : encDataBody T 0 last s = setOutput 0 0 0 s := by
  simp [encDataBody, h]

end

/-! ### The encrypt protocol -/

/-- The padded block that ends a plaintext with the given tail: none for an aligned plaintext under the reference policy
(43_cbc_mode.md R178, R186). -/
def padBlocks (fill : Block) (apad : Bool) (tail : List Byte) : List Block :=
  if tail = [] ∧ apad = false then [] else [pad (blockOf fill tail) tail.length]

theorem padBlocks_aligned (fill : Block) : padBlocks fill false [] = [] := if_pos ⟨rfl, rfl⟩

theorem padBlocks_padded (fill : Block) {apad : Bool} {tail : List Byte} (h : tail ≠ [] ∨ apad = true) :
    padBlocks fill apad tail = [pad (blockOf fill tail) tail.length] :=
  if_neg fun ⟨htail, hapad⟩ => h.elim (absurd htail) (by simp [hapad])

/-- The end of a plaintext, its tail or the boundary end, is one ENC_FINAL (43_cbc_mode.md R187). -/
theorem encryptPulls_tail (fill : Block) {tail : List Byte} (h : tail.length < 16) :
    encryptPulls fill (pulls tail) = [(.encData tail.length true, some (blockOf fill tail))] := by
  by_cases hnil : tail = []
  · subst hnil
    rw [blockOf_nil]
    rfl
  · rw [pulls_short hnil (by omega)]
    rfl

/-- A piece before the last one is a whole block without LAST (43_cbc_mode.md R187). -/
theorem encryptPulls_cons (fill : Block) (c : List Byte) {cs : List (List Byte)} (h : cs ≠ []) :
    encryptPulls fill (c :: cs) = (.encData 16 false, some (blockOf fill c)) :: encryptPulls fill cs := by
  cases cs with
  | nil => exact absurd rfl h
  | cons d ds => rfl

section
variable {fill : Block} {E : Block → Block} {s : State}
  (hE : ∀ b, s.crypt Config.tables b false = E b) (henc : s.fsm = .enc)
include hE henc

/-- The last command of the encrypt protocol, for a tail of 0 to 15 bytes: it emits the enciphered pad block, if any. -/
theorem run_encryptPulls_tail {tail : List Byte} (h : tail.length < 16) :
    ∃ trace, runCommands (encryptPulls fill (pulls tail)) s = some trace ∧
      emitted trace = blockBytes (cbcEncipher E s.chainBlock (padBlocks fill s.apad tail)) := by
  have hexec := exec_encData (s := loadDin (some (blockOf fill tail)) s) (by simp [henc]) h.le (.inr rfl)
  refine ⟨_, by rw [encryptPulls_tail fill h, runCommands_singleton hexec], ?_⟩
  by_cases hpad : tail ≠ [] ∨ s.apad = true
  · have hlen : tail.length ≠ 0 ∨ (loadDin (some (blockOf fill tail)) s).apad = true := by simpa using hpad
    rw [padBlocks_padded fill hpad, encDataBody_padded _ _ h hlen]
    simp [setOutput_output, hE, cbcEncipher]
  · obtain ⟨rfl, hapad⟩ : tail = [] ∧ s.apad = false := by simpa using hpad
    rw [hapad, padBlocks_aligned, List.length_nil, encDataBody_empty _ _ (by simp [hapad])]
    simp [setOutput_output, cbcEncipher, bytesOf]

/-- The last command of the encrypt protocol for a whole last block: the block, and the pad block if the policy asks. -/
theorem run_encryptPulls_whole (b : Block) :
    ∃ trace, runCommands (encryptPulls fill [bytesOf 16 b]) s = some trace ∧
      emitted trace = blockBytes (cbcEncipher E s.chainBlock (b :: padBlocks fill s.apad [])) := by
  have hexec := exec_encData (s := loadDin (some b) s) (last := true) (by simp [henc]) le_rfl (.inl rfl)
  have hcmd : encryptPulls fill [bytesOf 16 b] = [(.encData 16 true, some b)] := by
    rw [encryptPulls, length_bytesOf, blockOf_bytesOf]
  refine ⟨_, by rw [hcmd, runCommands_singleton hexec], ?_⟩
  cases hapad : s.apad with
  | false =>
    rw [padBlocks_aligned, encDataBody_whole _ _ (by simp [hapad])]
    simp [setOutput_output, hE, cbcEncipher]
  | true =>
    rw [padBlocks_padded fill (.inr rfl), encDataBody_whole_padded _ _ (by simp [hapad])]
    simp [setOutput_output_two_blocks, hE, cbcEncipher, pad_zero]

end

/-- The encrypt protocol after ENC_START, for whole blocks and a tail of 0 to 15 bytes: the host emits the enciphered
chain of the blocks and the pad block (43_cbc_mode.md R187). -/
theorem run_encryptPulls (fill : Block) {E : Block → Block} (bs : List Block) {tail : List Byte}
    (htail : tail.length < 16) {s : State} (hE : ∀ b, s.crypt Config.tables b false = E b) (henc : s.fsm = .enc) :
    ∃ trace, runCommands (encryptPulls fill (bs.map (bytesOf 16) ++ pulls tail)) s = some trace ∧
      emitted trace = blockBytes (cbcEncipher E s.chainBlock (bs ++ padBlocks fill s.apad tail)) := by
  induction bs generalizing s with
  | nil => exact run_encryptPulls_tail hE henc htail
  | cons b bs ih =>
    by_cases hend : bs.map (bytesOf 16) ++ pulls tail = []
    · obtain ⟨rfl, rfl⟩ : bs = [] ∧ tail = [] := by simpa using hend
      exact run_encryptPulls_whole hE henc b
    · have hexec := exec_encData (s := loadDin (some b) s) (last := false) (by simp [henc]) le_rfl (.inl rfl)
      rw [encDataBody_whole _ _ (by simp)] at hexec
      generalize ht : finishIf false _ = t at hexec
      have hchain : t.chainBlock = E (b ^^^ s.chainBlock) := by simp [← ht, hE]
      have hapad : t.apad = s.apad := by simp [← ht]
      obtain ⟨trace, hrun, hbytes⟩ := ih (s := t) (fun b => by simp [← ht, hE]) (by simp [← ht, finishIf_fsm, henc])
      refine ⟨t :: trace, ?_, ?_⟩
      · rw [List.map_cons, List.cons_append, encryptPulls_cons fill _ hend, blockOf_bytesOf, runCommands_cons hexec,
          hrun]
        rfl
      · have hout : t.output = bytesOf 16 (E (b ^^^ s.chainBlock)) := by simp [← ht, setOutput_output, hE]
        rw [emitted_cons, hout, hbytes, hchain, hapad]
        rfl

/-- A state in which a stream may be opened is not ERROR (43_cbc_mode.md R170). -/
theorem live_of_idle_or_done {s : State} (h : s.fsm = .idle ∨ s.fsm = .done) : s.fsm ≠ .error := by
  rcases h with h | h <;> simp [h]

/-- ENC_START in IDLE or DONE opens a stream with some enciphered IV (43_cbc_mode.md R180). -/
theorem exec_encStart {s : State} (h : s.fsm = .idle ∨ s.fsm = .done) :
    ∃ v, exec .encStart s =
      .next (setFsm .enc (setOutput v 0 16 (setChain v (writeSchedule (consumeEntropy s))))) := by
  rcases encStartEffect_cases Config.tables (encode .encStart) s with ⟨hno, -⟩ | ⟨-, v, -, heff⟩
  · exact absurd h hno
  · exact ⟨v, congrArg Host.Outcome.next ((unlessError_of_live (live_of_idle_or_done h)).trans heff)⟩

/-- The encrypt protocol emits the enciphered IV and the enciphered chain of the blocks and the pad block
(43_cbc_mode.md R187). -/
theorem run_encryptCommands (fill : Block) (bs : List Block) {tail : List Byte} (htail : tail.length < 16) {s : State}
    (h : s.fsm = .idle ∨ s.fsm = .done) :
    ∃ trace v, runCommands (encryptCommands fill (blockBytes bs ++ tail)) s = some trace ∧
      emitted trace =
        blockBytes (v :: cbcEncipher (s.crypt Config.tables · false) v (bs ++ padBlocks fill s.apad tail)) := by
  obtain ⟨v, hexec⟩ := exec_encStart h
  generalize ht : setFsm .enc _ = t at hexec
  have hcrypt : ∀ b, t.crypt Config.tables b false = s.crypt Config.tables b false := fun b =>
    crypt_congr _ _ _ _ _ (by simp [← ht]) (by simp [← ht]) (by simp [← ht])
  have hchain : t.chainBlock = v := by simp [← ht]
  have hapad : t.apad = s.apad := by simp [← ht]
  have hout : t.output = bytesOf 16 v := by simp [← ht, setOutput_output]
  obtain ⟨trace, hrun, hbytes⟩ := run_encryptPulls fill bs htail hcrypt (by simp [← ht])
  refine ⟨t :: trace, v, ?_, ?_⟩
  · rw [encryptCommands, pulls_blockBytes_append, runCommands_cons (b := none) hexec, hrun]
    rfl
  · rw [emitted_cons, hout, hbytes, hchain, hapad]
    rfl

/-! ### Decrypting what was encrypted -/

/-- The decrypt protocol for an IV block and whole ciphertext blocks (43_cbc_mode.md R199). -/
theorem decryptCommands_blocks (fill v : Block) (cs : List Block) :
    decryptCommands fill (blockBytes (v :: cs)) =
      (.decStart 16 cs.isEmpty, some v) :: decryptPulls fill (cs.map (bytesOf 16)) := by
  have hpulls : pulls (blockBytes (v :: cs)) = bytesOf 16 v :: cs.map (bytesOf 16) := by
    simpa using pulls_blockBytes_append (v :: cs) []
  simp only [decryptCommands, hpulls, length_bytesOf, blockOf_bytesOf, List.isEmpty_map, lt_irrefl, if_false]

/-- DEC_START with a whole block in IDLE or DONE chains on it (43_cbc_mode.md R192). -/
theorem exec_decStart {s : State} (h : s.fsm = .idle ∨ s.fsm = .done) (last : Bool) :
    exec (.decStart 16 last) s =
      .next (setFsm (if last then .done else .dec) (setOutput 0 0 0 (setChain s.inputBlock s))) := by
  have heff : ∀ v, decStartEffect 16 last v s =
      setFsm (if last then .done else .dec) (setOutput 0 0 0 (setChain s.inputBlock s)) := fun v => by
    simp [decStartEffect, (canStart_iff _).2 h]
  exact congrArg Host.Outcome.next ((unlessError_of_live (live_of_idle_or_done h)).trans (heff _))

/-- The decrypt protocol emits the deciphered chain without the pad of its last block (43_cbc_mode.md R199). -/
theorem run_decryptCommands (fill v : Block) (cs : List Block) {u : State} (h : u.fsm = .idle ∨ u.fsm = .done) :
    ∃ trace, runCommands (decryptCommands fill (blockBytes (v :: cs))) u = some trace ∧
      emitted trace = unpadded (cbcDecipher (u.crypt Config.tables · true) v cs) := by
  have hexec := exec_decStart (s := loadDin (some v) u) (by simpa using h) cs.isEmpty
  generalize ht : setFsm _ _ = t at hexec
  have hchain : t.chainBlock = v := by simp [← ht]
  have hout : t.output = [] := by simp [← ht, setOutput_output, bytesOf]
  have hcrypt : ∀ b, t.crypt Config.tables b true = u.crypt Config.tables b true := fun b => by
    rw [← ht]
    rfl
  obtain ⟨trace, hrun, -, hbytes⟩ := run_decryptPulls fill cs hcrypt fun hne => by simp [← ht, hne]
  refine ⟨t :: trace, ?_, ?_⟩
  · rw [decryptCommands_blocks, runCommands_cons hexec, hrun]
    rfl
  · rw [emitted_cons, hout, hbytes, hchain]
    rfl

/-- Encrypting whole blocks and a tail and decrypting the wire under the same CSEL and KEY emits the blocks and the pad
block without the pad of the last one (43_cbc_mode.md R200, R201): the two chains undo each other. -/
theorem protocols_emit_unpadded (fill : Block) {s u : State} (hs : s.fsm = .idle ∨ s.fsm = .done)
    (hu : u.fsm = .idle ∨ u.fsm = .done) (hcsel : u.csel = s.csel) (hkey0 : u.key0 = s.key0) (hkey1 : u.key1 = s.key1)
    (bs : List Block) {tail : List Byte} (htail : tail.length < 16) :
    ∃ trace trace', runCommands (encryptCommands fill (blockBytes bs ++ tail)) s = some trace ∧
      runCommands (decryptCommands fill (emitted trace)) u = some trace' ∧
      emitted trace' = unpadded (bs ++ padBlocks fill s.apad tail) := by
  have hinv : ∀ b, u.crypt Config.tables (s.crypt Config.tables b false) true = b := fun b => by
    rw [crypt_congr _ s u _ _ hcsel hkey0 hkey1]
    exact adapterInvertible Config.tables s.csel s.key0 s.key1 b false
  obtain ⟨trace, v, hrun, hwire⟩ := run_encryptCommands fill bs htail hs
  obtain ⟨trace', hrun', hbytes⟩ := run_decryptCommands fill v
    (cbcEncipher (s.crypt Config.tables · false) v (bs ++ padBlocks fill s.apad tail)) hu
  refine ⟨trace, trace', hrun, ?_, ?_⟩
  · rw [hwire, hrun']
  · rw [hbytes, cbcDecipher_cbcEncipher _ _ hinv]

/-- The pad block carries the tail, and its pad is what is removed (43_cbc_mode.md R176, R177). -/
theorem unpadded_padBlocks (fill : Block) {apad : Bool} (bs : List Block) {tail : List Byte} (htail : tail.length < 16)
    (h : tail ≠ [] ∨ apad = true) : unpadded (bs ++ padBlocks fill apad tail) = blockBytes bs ++ tail := by
  have hlen : 16 - (16 - tail.length) = tail.length := by omega
  rw [padBlocks_padded fill h, unpadded_concat, stripLen_pad _ (by omega), hlen, bytesOf_pad_blockOf fill htail]

/-- The last 16 bytes of whole blocks are the last block. -/
theorem blockOf_drop_blockBytes (fill : Block) (bs : List Block) (q : Block) :
    blockOf fill ((blockBytes (bs ++ [q])).drop ((blockBytes (bs ++ [q])).length - 16)) = q := by
  have hlen : (blockBytes (bs ++ [q])).length - 16 = (blockBytes bs).length := by
    simp only [length_blockBytes, List.length_append, List.length_singleton]
    omega
  rw [hlen, blockBytes_concat, List.drop_left, blockOf_bytesOf]

/-- Whole blocks have no tail when their length is a multiple of 16. -/
theorem tail_eq_nil_of_aligned {bs : List Block} {tail : List Byte} (htail : tail.length < 16)
    (h : (blockBytes bs ++ tail).length % 16 = 0) : tail = [] := by
  rw [List.length_append, length_blockBytes] at h
  exact List.eq_nil_of_length_eq_zero (by omega)

/-- Settles O59: with a pad block the tail comes back by `unpadded_padBlocks`; an aligned plaintext under the reference
policy is empty or ends in a block that StripLen leaves whole. -/
theorem streamRoundTripRecoversPlaintext : Obligations.StreamRoundTripRecoversPlaintext := by
  intro fill s u plain hs hu hcsel hkey0 hkey1 hrec
  obtain ⟨bs, tail, htail, rfl⟩ := exists_blocks plain
  obtain ⟨trace, trace', hrun, hrun', hbytes⟩ := protocols_emit_unpadded fill hs hu hcsel hkey0 hkey1 bs htail
  refine ⟨trace, trace', hrun, hrun', hbytes.trans ?_⟩
  by_cases hpad : tail ≠ [] ∨ s.apad = true
  · exact unpadded_padBlocks fill bs htail hpad
  · obtain ⟨rfl, hapad⟩ : tail = [] ∧ s.apad = false := by simpa using hpad
    rw [hapad, padBlocks_aligned, List.append_nil, List.append_nil]
    rcases List.eq_nil_or_concat' bs with rfl | ⟨bs, q, rfl⟩
    · rfl
    · have hstrip : stripLen q = 0 := by
        rw [List.append_nil] at hrec
        rcases hrec with htrue | hlen | hnil | hstrip
        · simp [hapad] at htrue
        · simp at hlen
        · simp [← List.length_eq_zero_iff] at hnil
        · rwa [blockOf_drop_blockBytes] at hstrip
      rw [unpadded_concat, hstrip]
      simp

/-- Settles O60: no pad block is added, and the decrypt side strips the last p bytes of the last block. -/
theorem referencePolicyLosesPadLikeTail : Obligations.ReferencePolicyLosesPadLikeTail := by
  intro fill s u plain p hs hu hcsel hkey0 hkey1 hapad hne haligned hp _
  obtain ⟨bs, tail, htail, rfl⟩ := exists_blocks plain
  obtain rfl := tail_eq_nil_of_aligned htail haligned
  obtain ⟨trace, trace', hrun, hrun', hbytes⟩ := protocols_emit_unpadded fill hs hu hcsel hkey0 hkey1 bs htail
  refine ⟨trace, trace', hrun, hrun', hbytes.trans ?_⟩
  rw [List.append_nil] at hne hp ⊢
  rw [hapad, padBlocks_aligned, List.append_nil]
  rcases List.eq_nil_or_concat' bs with rfl | ⟨bs, q, rfl⟩
  · exact absurd rfl hne
  · rw [blockOf_drop_blockBytes] at hp
    have hle := stripLen_le q
    have hlen : (blockBytes (bs ++ [q])).length - p = (blockBytes bs).length + (16 - p) := by
      simp only [length_blockBytes, List.length_append, List.length_singleton]
      omega
    rw [hlen, unpadded_concat, ← hp, blockBytes_concat, List.take_length_add_append, take_bytesOf (by omega)]

end Sys2Proof.Machine
end

section
/-! The word of a command the decoder gives: an accepted word is its encoding, no bit dropped (30_encoding.md R84, R87). -/

namespace Sys2Proof

/-- The LEN field, read as a count and written back (30_encoding.md R82, R87). -/
@[simp] theorem ofNat_fieldLen (v : Word) : BitVec.ofNat 5 (fieldLen v) = v.extractLsb' 5 5 := by
  rw [fieldLen, BitVec.ofNat_toNat, BitVec.setWidth_eq]

/-- The NR field, read as a count and written back (30_encoding.md R82, R87). -/
@[simp] theorem ofNat_fieldNr (v : Word) : BitVec.ofNat 5 (fieldNr v) = v.extractLsb' 11 5 := by
  rw [fieldNr, BitVec.ofNat_toNat, BitVec.setWidth_eq]

end Sys2Proof

namespace Sys2Proof.Machine

/-- The word of the command assembled from a word keeps the bits the opcode uses and clears the others
(30_encoding.md R82, R87). -/
theorem getLsbD_encode_assemble {op : Opcode} {v : Word} (hop : op.code = fieldOp v) (k : Nat) :
    (encode (op.assemble v)).getLsbD k = (v.getLsbD k && (decide (k < 4) || usesBit op k)) := by
  by_cases hlow : k < 4
  · have hcode : op.code.getLsbD k = v.getLsbD k := by rw [hop, getLsbD_fieldOp, decide_eq_true hlow, Bool.true_and]
    cases op <;> simpa [Opcode.assemble, encode, getLsbD_encodeFields, hlow] using hcode
  · have hlen : 5 ≤ k → 5 + (k - 5) = k := by omega
    have hnr : 11 ≤ k → 11 + (k - 11) = k := by omega
    cases op with
    | ksched | round | encStart | abortSrc | abortSnk | clear =>
      simp [Opcode.assemble, encode, getLsbD_encodeFields, usesBit, hlow]
    | cipher | feistel =>
      simp [Opcode.assemble, encode, getLsbD_encodeFields, usesBit, fieldInv, hlow]
      grind
    | encData | decStart | decData =>
      simp [Opcode.assemble, encode, getLsbD_encodeFields, usesBit, fieldLast, hlow]
      grind

/-- The word of an accepted command is its encoding (30_encoding.md R84, R87). -/
theorem encode_eq_of_decode {v : Word} {i : Instr} (h : decode v = .ok i) : encode i = v := by
  obtain ⟨op, hop, hmatch, rfl⟩ := decode_eq_ok h
  obtain ⟨-, hused⟩ := (and_mask_eq_pattern_iff v op).1 hmatch
  apply BitVec.eq_of_getLsbD_eq
  intro k hk
  rw [getLsbD_encode_assemble hop]
  cases hv : v.getLsbD k with
  | false => rfl
  | true => simpa using hused k hk hv

/-- CLEAR has one word (30_encoding.md R83). -/
theorem decode_eq_clear_iff {v : Word} : decode v = .ok .clear ↔ v = 0x000000000000000F := by
  constructor
  · exact fun h => (encode_eq_of_decode h).symm
  · rintro rfl
    rfl

end Sys2Proof.Machine
end

section
/-! Exceptions: what the engine's step does with a word in and outside ERROR, which error it records, and the ways out
of ERROR (60_exceptions.md R236 to R240). -/

namespace Sys2Proof.Machine

/-! ### The engine's step, word by word -/

/-- The engine's step on an accepted word: its command, and BUSY falls (30_encoding.md R85). -/
theorem engineStep_of_decode {v : Word} {i : Instr} {s t : State} (hi : decode v = .ok i) (h : exec i s = .next t) :
    engineStep v s = .next (complete t) := by
  simp only [engineStep, runWord, hi, h, completeOutcome]

/-- CLEAR executes in every state (44_control.md R215). -/
theorem engineStep_clear (s : State) : engineStep 0x000000000000000F s = .next (complete (leaveError s)) :=
  engineStep_of_decode (decode_eq_clear_iff.2 rfl) rfl

/-- In ERROR a word other than CLEAR, command or not, does nothing but complete (60_exceptions.md R238). -/
theorem engineStep_of_error {v : Word} {s : State} (herr : s.fsm = .error) (hv : v ≠ 0x000000000000000F) :
    engineStep v s = .next (complete s) := by
  cases h : decode v with
  | ok i => exact engineStep_of_decode h (exec_error herr fun hi => hv (decode_eq_clear_iff.1 (hi ▸ h)))
  | error e => rw [engineStep_illegal h, unlessError_of_error herr]

/-- Outside ERROR a word that is no command is the error entry of ILLEGAL_CMD (60_exceptions.md R240). -/
theorem engineStep_illegal_of_live {v : Word} {e : DecodeError} {s : State} (hlive : s.fsm ≠ .error)
    (h : decode v = .error e) : engineStep v s = .next (complete (errorEntry .illegalCmd v s)) := by
  rw [engineStep_illegal h, unlessError_of_live hlive]

/-- Outside ERROR a command that reports an error is its error entry, with the word itself (60_exceptions.md R236). -/
theorem engineStep_of_errorOf_eq_some {v : Word} {i : Instr} {s : State} {x : Err} (hlive : s.fsm ≠ .error)
    (hi : decode v = .ok i) (hx : errorOf i s.fsm = some x) :
    engineStep v s = .next (complete (errorEntry x v s)) := by
  obtain ⟨t, h⟩ := exec_next i s
  rw [engineStep_of_decode hi h]
  rcases exec_cases h with ⟨herr, -⟩ | ⟨rfl, -⟩ | ⟨-, y, hy, rfl⟩ | ⟨-, -, hnone, -⟩
  · exact absurd herr hlive
  · exact absurd hx (Option.some_ne_none _).symm
  · obtain rfl : y = x := Option.some.inj (hy.symm.trans hx)
    rw [encode_eq_of_decode hi]
  · exact absurd (hnone.symm.trans hx) (Option.some_ne_none _).symm

/-- A success records no error (60_exceptions.md R236). -/
theorem Succeeds.keeps_err {i : Instr} {s t : State} (h : Succeeds i s t) : t.err = s.err ∧ t.errcmd = s.errcmd := by
  cases h with
  | encStart | encOne | encNone | decOne => simp [decDataBody, encipherLink]
  | encTwo _ _ s1 s2 h1 h2 => simp [h1, h2, encipherLink]
  | ksched | feistel | cipher | round | decStart | decNone => exact ⟨rfl, rfl⟩

/-- Outside ERROR a command that reports no error does not enter it, and but for CLEAR keeps ERR and ERRCMD
(60_exceptions.md R240). -/
theorem engineStep_of_errorOf_eq_none {v : Word} {i : Instr} {s : State} (hlive : s.fsm ≠ .error)
    (hi : decode v = .ok i) (hnone : errorOf i s.fsm = none) :
    ∃ t, engineStep v s = .next t ∧ t.fsm ≠ .error ∧ (i ≠ .clear → t.err = s.err ∧ t.errcmd = s.errcmd) := by
  obtain ⟨t, h⟩ := exec_next i s
  refine ⟨complete t, engineStep_of_decode hi h, ?_⟩
  rcases exec_cases h with ⟨herr, -⟩ | ⟨hc, rfl⟩ | ⟨-, x, hx, -⟩ | ⟨-, -, -, hok⟩
  · exact absurd herr hlive
  · exact ⟨Fsm.noConfusion, fun hi => absurd hc hi⟩
  · exact absurd (hx.symm.trans hnone) (Option.some_ne_none _)
  · exact ⟨hok.fsm_ne_error hlive, fun _ => hok.keeps_err⟩

/-- The error a command reports is one (60_exceptions.md R230). -/
theorem errorOf_ne_noError (i : Instr) (f : Fsm) : errorOf i f ≠ some .noError := by
  cases i with
  | ksched | cipher | round | clear => exact (Option.some_ne_none _).symm
  | abortSrc | abortSnk => simp [errorOf]
  | feistel | encStart | encData | decStart | decData => simp only [errorOf]; split_ifs <;> simp

/-! ### Leaving ERROR -/

/-- The engine leaves ERROR by CLEAR only (60_exceptions.md R238, R239). -/
theorem engineStep_leaves_error {v : Word} {s t : State} (herr : s.fsm = .error) (h : engineStep v s = .next t)
    (hleft : t.fsm ≠ .error) : v = 0x000000000000000F ∧ t = complete (leaveError s) := by
  by_cases hv : v = 0x000000000000000F
  · subst hv
    exact ⟨rfl, Host.Outcome.next.inj (h.symm.trans (engineStep_clear s))⟩
  · obtain rfl : t = complete s := Host.Outcome.next.inj (h.symm.trans (engineStep_of_error herr hv))
    exact absurd herr hleft

/-- No write of a register changes the stream state (20_memory.md R64). -/
@[simp] theorem writeReg_fsm (r : Reg) (v : Word) (s : State) : (writeReg r v s).fsm = s.fsm := by
  cases r <;> rfl

/-- No port access changes the stream state (20_memory.md R64, 70_reset_and_hazards.md R266). -/
@[simp] theorem portAccess_fsm (x : Access) (s : State) : (portAccess x s).fsm = s.fsm := by
  rcases portAccess_cases x s with ⟨idx, h⟩ | ⟨-, h⟩ | ⟨-, r, v, h⟩
  · rw [h, hostRead_fsm]
  · rw [h]
  · rw [h, writeReg_fsm]

/-- No turn of a POLL changes the stream state (30_encoding.md R89). -/
@[simp] theorem pollTurn_fsm (s : State) : (pollTurn s).fsm = s.fsm := by
  rcases pollTurn_cases s with ⟨-, h⟩ | ⟨-, h⟩
  · rw [h, hostRead_fsm]
  · rw [h, hostRead_fsm]

/-- An action of the outside world keeps the stream state, or is part of a reset, which leads to IDLE
(70_reset_and_hazards.md R260). -/
theorem hostStep_fsm {a : HostAction} {s t : State} (h : hostStep a s = .next t) :
    t.fsm = s.fsm ∨ (t.fsm = .idle ∧ (s.inReset = true ∨ (t.inReset = true ∧ a = .resetAssert))) := by
  rcases hostStep_cases h with ⟨hr, rfl | ⟨-, rfl⟩⟩ | ⟨-, ha, rfl⟩ | ⟨-, x, rfl⟩ | ⟨-, -, rfl⟩ | ⟨-, -, rfl⟩
  · exact .inr ⟨rfl, .inl hr⟩
  · exact .inr ⟨rfl, .inl hr⟩
  · exact .inr ⟨rfl, .inr ⟨rfl, ha⟩⟩
  · exact .inl (portAccess_fsm x s)
  · exact .inl (pollTurn_fsm s)
  · exact .inl rfl

/-- The outside world's assertion of reset leads to IDLE, in reset or not (70_reset_and_hazards.md R260). -/
theorem hostStep_resetAssert (s : State) : hostStep .resetAssert s = .next (holdReset s) := by
  cases hr : s.inReset with
  | false => exact hostStep_live hr
  | true => exact hostStep_inReset hr

/-! ### The obligations -/

/-- Settles O9, by `engineStep_of_error`. -/
theorem errorStateIgnoresCommands : Obligations.ErrorStateIgnoresCommands :=
  fun _ _ => engineStep_of_error

/-- Settles O10: the engine leaves ERROR by CLEAR only, since it ignores every other word there, and the outside world
by a reset only, by `hostStep_fsm`. -/
theorem onlyClearAndResetLeaveError : Obligations.OnlyClearAndResetLeaveError := by
  refine ⟨fun s t h herr hleft => ?_, fun s => ⟨_, engineStep_clear s, rfl⟩,
    fun s => ⟨_, hostStep_resetAssert s, rfl⟩⟩
  rcases step_cases h with rfl | ⟨v, u, hp, hr, hu, rfl⟩ | ⟨a, rest, htodo, -, ha⟩
  · exact absurd herr hleft
  · have hstep : engineStep v s = .next (complete u) := by rw [engineStep, hu, completeOutcome]
    obtain ⟨rfl, hclear⟩ := engineStep_leaves_error herr hstep hleft
    exact ⟨hclear ▸ rfl, .inl ⟨hp, hr, rfl⟩⟩
  · rcases hostStep_fsm ha with hkept | ⟨hidle, hr | ⟨hr, rfl⟩⟩
    · exact absurd (hkept.trans herr) hleft
    · exact ⟨hidle, .inr (.inl hr)⟩
    · exact ⟨hidle, .inr (.inr ⟨hr, rest, htodo⟩)⟩

/-- Settles O26: outside ERROR a word is no command, reports the error `errorOf` names, or does not enter ERROR. -/
theorem errorsArePrecise : Obligations.ErrorsArePrecise := by
  intro v s t hlive h ht
  cases hi : decode v with
  | error e =>
    rw [engineStep_illegal_of_live hlive hi] at h
    exact ⟨.illegalCmd, Err.noConfusion, (Host.Outcome.next.inj h).symm⟩
  | ok i =>
    cases hx : errorOf i s.fsm with
    | some x =>
      rw [engineStep_of_errorOf_eq_some hlive hi hx] at h
      exact ⟨x, fun hno => errorOf_ne_noError i s.fsm (hno ▸ hx), (Host.Outcome.next.inj h).symm⟩
    | none =>
      obtain ⟨u, hu, hlive', -⟩ := engineStep_of_errorOf_eq_none hlive hi hx
      obtain rfl : u = t := Host.Outcome.next.inj (hu.symm.trans h)
      exact absurd ht hlive'

/-- Settles O27: one lemma on the engine's step per clause. -/
theorem firstErrorInPriorityOrder : Obligations.FirstErrorInPriorityOrder := by
  intro v s
  refine ⟨?_, engineStep_of_error, fun e hlive hi => ?_, fun i x => engineStep_of_errorOf_eq_some,
    fun i => engineStep_of_errorOf_eq_none⟩
  · rintro - rfl
    exact ⟨_, engineStep_clear s, rfl, rfl⟩
  · exact ⟨_, engineStep_illegal_of_live hlive hi, rfl, rfl⟩

end Sys2Proof.Machine
end

section
/-! The BUSY hazard: a write while BUSY only sets WIB, and what keeps WIB set (70_reset_and_hazards.md R266). -/

namespace Sys2Proof.Machine

/-- With reset released a host write while BUSY sets WIB and is ignored otherwise, whatever its index
(70_reset_and_hazards.md R266). -/
theorem hostStep_write_busy {s : State} (idx : BitVec 5) (v : Word) (hbusy : s.pending ≠ none)
    (hlive : s.inReset = false) : hostStep (.access (.write idx v)) s = .next { s with wib := true } := by
  have hb : s.busy = true := Option.isSome_iff_ne_none.2 hbusy
  rw [hostStep_live hlive]
  simp only [actionLive, portAccess, hostWrite, if_pos hb]

/-! ### The engine and WIB -/

@[simp] theorem encipherLink_wib (T : Tables) (p : Block) (s : State) : (encipherLink T p s).wib = s.wib := rfl

@[simp] theorem decDataBody_wib (T : Tables) (last : Bool) (s : State) : (decDataBody T last s).wib = s.wib := rfl

/-- A success of a command other than CLEAR keeps WIB (70_reset_and_hazards.md R266). -/
theorem Succeeds.keeps_wib {i : Instr} {s t : State} (h : Succeeds i s t) : t.wib = s.wib := by
  cases h with
  | encStart | encOne | encNone | decOne => simp
  | encTwo _ _ s1 s2 h1 h2 => simp [h1, h2]
  | ksched | feistel | cipher | round | decStart | decNone => rfl

/-- Every command but CLEAR keeps WIB, in every state (70_reset_and_hazards.md R266). -/
theorem exec_wib {i : Instr} {s t : State} (h : exec i s = .next t) (hi : i ≠ .clear) : t.wib = s.wib := by
  rcases exec_cases h with ⟨-, -, rfl⟩ | ⟨hc, -⟩ | ⟨-, x, -, rfl⟩ | ⟨-, -, -, hok⟩
  · rfl
  · exact absurd hc hi
  · exact errorEntry_wib x (encode i) s
  · exact hok.keeps_wib

@[simp] theorem unlessError_errorEntry_wib (x : Err) (v : Word) (s : State) :
    (unlessError (errorEntry x v) s).wib = s.wib := by
  rcases unlessError_cases (errorEntry x v) s with ⟨-, h⟩ | ⟨-, h⟩
  · rw [h]
  · rw [h, errorEntry_wib]

/-- Every word but that of CLEAR, command or not, keeps WIB (70_reset_and_hazards.md R266). -/
theorem runWord_wib {v : Word} {s t : State} (h : runWord v s = .next t) (hv : v ≠ 0x000000000000000F) :
    t.wib = s.wib := by
  rcases runWord_cases v s with ⟨i, hi, hrun⟩ | ⟨e, -, hrun⟩
  · exact exec_wib (hrun.symm.trans h) fun hc => hv (decode_eq_clear_iff.1 (hc ▸ hi))
  · obtain rfl := Host.Outcome.next.inj (hrun.symm.trans h)
    exact unlessError_errorEntry_wib .illegalCmd v s

/-! ### The outside world and WIB -/

/-- No write of a register changes WIB (20_memory.md R64). -/
@[simp] theorem writeReg_wib (r : Reg) (v : Word) (s : State) : (writeReg r v s).wib = s.wib := by
  cases r <;> rfl

/-- No port access makes WIB 0 (70_reset_and_hazards.md R266). -/
theorem portAccess_keeps_wib_set (x : Access) {s : State} (hwib : s.wib = true) : (portAccess x s).wib = true := by
  rcases portAccess_cases x s with ⟨idx, h⟩ | ⟨-, h⟩ | ⟨-, r, v, h⟩
  · rw [h, hostRead_wib, hwib]
  · rw [h]
  · rw [h, writeReg_wib, hwib]

/-- No turn of a POLL changes WIB (30_encoding.md R89). -/
@[simp] theorem pollTurn_wib (s : State) : (pollTurn s).wib = s.wib := by
  rcases pollTurn_cases s with ⟨-, h⟩ | ⟨-, h⟩
  · rw [h, hostRead_wib]
  · rw [h, hostRead_wib]

/-- An action of the outside world keeps WIB set, or is part of a reset (70_reset_and_hazards.md R260, R266). -/
theorem hostStep_keeps_wib_set {a : HostAction} {s t : State} (h : hostStep a s = .next t) (hwib : s.wib = true) :
    t.wib = true ∨ s.inReset = true ∨ (t.inReset = true ∧ a = .resetAssert) := by
  rcases hostStep_cases h with ⟨hr, -⟩ | ⟨-, ha, rfl⟩ | ⟨-, x, rfl⟩ | ⟨-, -, rfl⟩ | ⟨-, -, rfl⟩
  · exact .inr (.inl hr)
  · exact .inr (.inr ⟨rfl, ha⟩)
  · exact .inl (portAccess_keeps_wib_set x hwib)
  · exact .inl ((pollTurn_wib s).trans hwib)
  · exact .inl hwib

/-! ### The obligation -/

/-- Settles O14: the write is `hostStep_write_busy`. WIB falls by the engine on the word of CLEAR only, since
`runWord_wib` keeps it on every other word, and by the outside world in a reset only, by `hostStep_keeps_wib_set`. -/
theorem writeWhileBusyOnlySetsWib : Obligations.WriteWhileBusyOnlySetsWib := by
  refine ⟨fun _ => hostStep_write_busy, fun s t h hset hcleared => ?_⟩
  have hfell : t.wib ≠ s.wib := by simp [hset, hcleared]
  rcases step_cases h with rfl | ⟨v, u, hp, hr, hu, rfl⟩ | ⟨a, rest, htodo, -, ha⟩
  · exact absurd rfl hfell
  · have hv : v = 0x000000000000000F := by
      by_contra hv
      exact hfell ((complete_wib u).trans (runWord_wib hu hv))
    exact .inl ⟨hv ▸ hp, hr, rfl⟩
  · rcases hostStep_keeps_wib_set ha hset with hkept | hr | ⟨hr, rfl⟩
    · exact absurd (hkept.trans hset.symm) hfell
    · exact .inr (.inl hr)
    · exact .inr (.inr ⟨hr, rest, htodo⟩)

end Sys2Proof.Machine
end

section
/-! The two round trips between commands and command words (30_encoding.md R82, R84, R87). -/

namespace Sys2Proof.Machine

/-- The operands assembled from a word fit their fields (30_encoding.md R81, R82). -/
theorem wellFormed_assemble (op : Opcode) (v : Word) : (op.assemble v).wellFormed = true := by
  have hlen : fieldLen v < 32 := (v.extractLsb' 5 5).isLt
  have hnr : fieldNr v < 32 := (v.extractLsb' 11 5).isLt
  cases op with
  | feistel => exact decide_eq_true hnr
  | encData | decStart | decData => exact decide_eq_true hlen
  | ksched | cipher | round | encStart | abortSrc | abortSnk | clear => rfl

/-- The decoder gives well-formed commands only (30_encoding.md R81, R82). -/
theorem wellFormed_of_decode {v : Word} {i : Instr} (h : decode v = .ok i) : i.wellFormed = true := by
  obtain ⟨op, -, -, rfl⟩ := decode_eq_ok h
  exact wellFormed_assemble op v

/-- Settles O2, by `decode_encode`. -/
theorem decodeEncodeRoundTrip : Obligations.DecodeEncodeRoundTrip :=
  fun _ => decode_encode

/-- Settles O3: the operands of an accepted word fit their fields, and `encode_eq_of_decode` gives back every bit. -/
theorem acceptedWordIsItsEncoding : Obligations.AcceptedWordIsItsEncoding :=
  fun _ _ h => ⟨wellFormed_of_decode h, encode_eq_of_decode h⟩

end Sys2Proof.Machine
end

section
/-! What no command writes (10_state.md R32, R33, R36). -/

namespace Sys2Proof.Machine

/-- The registers only the host writes and the fields of the outside world and of the pending command. -/
def State.hostPart (s : State) : (Bool × Bool × Bool) × (Word × Word × Word × Word × Word × Word) ×
    (List HostAction × List ReadRecord × Bool × Option Word × Nat) :=
  ((s.csel, s.apad, s.esrc), (s.key0, s.key1, s.din0, s.din1, s.eseed0, s.eseed1),
    (s.todo, s.reads, s.inReset, s.pending, s.wait))

/-- A success of a command keeps what the host writes (10_state.md R32, R33, R36). -/
theorem Succeeds.hostPart {i : Instr} {s t : State} (h : Succeeds i s t) : t.hostPart = s.hostPart := by
  cases h with
  | encStart | encOne | encNone | decOne => simp [State.hostPart, decDataBody, encipherLink]
  | encTwo _ _ s1 s2 h1 h2 => simp [State.hostPart, h1, h2, encipherLink]
  | ksched | feistel | cipher | round | decStart | decNone => rfl

/-- Equal parts have equal fields of the outside world and of the pending command. -/
theorem State.hostPart_inj {s t : State} (h : t.hostPart = s.hostPart) :
    t.todo = s.todo ∧ t.inReset = s.inReset ∧ t.pending = s.pending ∧ t.wait = s.wait := by
  simp only [State.hostPart, Prod.mk.injEq] at h
  obtain ⟨-, -, htodo, -, hrest⟩ := h
  exact ⟨htodo, hrest⟩

/-- Every command keeps what the host writes, in every state (10_state.md R32, R33, R36). -/
theorem exec_hostPart {i : Instr} {s t : State} (h : exec i s = .next t) : t.hostPart = s.hostPart := by
  rcases exec_cases h with ⟨-, -, rfl⟩ | ⟨-, rfl⟩ | ⟨-, x, -, rfl⟩ | ⟨-, -, -, hok⟩
  · rfl
  · rfl
  · rfl
  · exact hok.hostPart

/-- The rule of every word, command or not, keeps what the host writes (30_encoding.md R85). -/
theorem runWord_hostPart {v : Word} {s u : State} (h : runWord v s = .next u) : u.hostPart = s.hostPart := by
  rcases runWord_cases v s with ⟨i, -, hrun⟩ | ⟨e, -, hrun⟩
  · exact exec_hostPart (hrun.symm.trans h)
  · obtain rfl := Host.Outcome.next.inj (hrun.symm.trans h)
    rcases unlessError_cases (errorEntry .illegalCmd v) s with ⟨-, heq⟩ | ⟨-, heq⟩ <;> rw [heq]
    rfl

/-- Settles O32: `exec_hostPart`, read component by component, and `exec_wib`. -/
theorem engineNeverWritesHostRegisters : Obligations.EngineNeverWritesHostRegisters := by
  intro i s t h
  have hkept := exec_hostPart h
  simp only [State.hostPart, Prod.mk.injEq, and_assoc] at hkept
  have hwib := exec_wib h
  tauto

end Sys2Proof.Machine
end

section
/-! Every step keeps the legal states (10_state.md R28, R29, R31, R34; 60_exceptions.md R239). -/

namespace Sys2Proof.Machine

/-! ### What no host access writes -/

/-- The registers and STATUS fields only commands and resets write (10_state.md R21; 20_memory.md R64). -/
def State.readOnlyPart (s : State) : (Fsm × Err × Word × Fin 33) × (Word × Word × Word × Word × Word × Word) :=
  ((s.fsm, s.err, s.errcmd, s.olen), (s.dout0, s.dout1, s.dout2, s.dout3, s.cv0, s.cv1))

/-- No write of a register reaches an RO register (20_memory.md R64). -/
@[simp] theorem writeReg_readOnlyPart (r : Reg) (v : Word) (s : State) :
    (writeReg r v s).readOnlyPart = s.readOnlyPart := by
  cases r <;> rfl

/-- No port access writes an RO register (20_memory.md R64, 70_reset_and_hazards.md R266). -/
@[simp] theorem portAccess_readOnlyPart (x : Access) (s : State) :
    (portAccess x s).readOnlyPart = s.readOnlyPart := by
  rcases portAccess_cases x s with ⟨idx, h⟩ | ⟨-, h⟩ | ⟨-, r, v, h⟩
  · rw [h]; rfl
  · rw [h]; rfl
  · rw [h, writeReg_readOnlyPart]

/-- No turn of a POLL writes an RO register (30_encoding.md R89). -/
@[simp] theorem pollTurn_readOnlyPart (s : State) : (pollTurn s).readOnlyPart = s.readOnlyPart := by
  rcases pollTurn_cases s with ⟨-, h⟩ | ⟨-, h⟩ <;> rw [h] <;> rfl

@[simp] theorem writeReg_inReset (r : Reg) (v : Word) (s : State) : (writeReg r v s).inReset = s.inReset := by
  cases r <;> rfl

@[simp] theorem portAccess_inReset (x : Access) (s : State) : (portAccess x s).inReset = s.inReset := by
  rcases portAccess_cases x s with ⟨idx, h⟩ | ⟨-, h⟩ | ⟨-, r, v, h⟩
  · rw [h, hostRead_inReset]
  · rw [h]
  · rw [h, writeReg_inReset]

@[simp] theorem pollTurn_inReset (s : State) : (pollTurn s).inReset = s.inReset := by
  rcases pollTurn_cases s with ⟨-, h⟩ | ⟨-, h⟩ <;> rw [h] <;> rfl

/-- A write of CMD opens a window and makes its word pending at once; other writes touch neither (log 3). -/
theorem writeReg_wait {s : State} (h : s.pending = none → s.wait = 0) (r : Reg) (v : Word) :
    (writeReg r v s).pending = none → (writeReg r v s).wait = 0 := by
  cases r with
  | cmd => exact fun hp => absurd hp (Option.some_ne_none _)
  | _ => exact h

/-- Port accesses keep it so that only a pending command has a window (log 3). -/
theorem portAccess_wait {s : State} (h : s.pending = none → s.wait = 0) (x : Access) :
    (portAccess x s).pending = none → (portAccess x s).wait = 0 := by
  rcases portAccess_cases x s with ⟨idx, hx⟩ | ⟨-, hx⟩ | ⟨-, r, v, hx⟩
  · rw [hx]; exact h
  · rw [hx]; exact h
  · rw [hx]; exact writeReg_wait h r v

/-- A turn of a POLL changes neither the pending command nor its window (30_encoding.md R89). -/
theorem pollTurn_wait {s : State} (h : s.pending = none → s.wait = 0) :
    (pollTurn s).pending = none → (pollTurn s).wait = 0 := by
  rcases pollTurn_cases s with ⟨-, hp⟩ | ⟨-, hp⟩ <;> rw [hp] <;> exact h

/-! ### Resets and host accesses -/

/-- Legality looks at the read-only part, the window and the reset input only. -/
theorem State.Inv.of_readOnlyPart {s t : State} (h : s.Inv) (hro : t.readOnlyPart = s.readOnlyPart)
    (hwait : t.pending = none → t.wait = 0) (hreset : t.inReset = true → t = holdReset t) : t.Inv := by
  simp only [State.readOnlyPart, Prod.mk.injEq] at hro
  obtain ⟨⟨hfsm, herr, herrcmd, holen⟩, -, -, hd2, hd3, hc0, hc1⟩ := hro
  constructor
  · rw [herr, hfsm]; exact h.errIffError
  · rw [herr, herrcmd]; exact h.errcmdExplained
  · rw [hfsm, hc0, hc1]; exact h.idleChain
  · rw [holen]; exact h.olenLegal
  · rw [hfsm, holen, hd2, hd3]; exact h.spareOutput
  · exact hwait
  · exact hreset

/-- With reset released nothing has to have its reset value. -/
theorem resetHeld_of_live {s : State} (hr : s.inReset = false) (ht : s.inReset = true) : s = holdReset s :=
  absurd (hr.symm.trans ht) Bool.noConfusion

/-- Settles O30, clause by clause: every register is 0, nothing is pending and reset is released. -/
theorem resetStateIsLegal : Obligations.ResetStateIsLegal where
  errIffError := by decide
  errcmdExplained := by decide
  idleChain _ := ⟨rfl, rfl⟩
  olenLegal := .inl (Nat.zero_le 16)
  spareOutput _ _ := ⟨rfl, rfl⟩
  waitPending _ := rfl
  resetHeld := resetHeld_of_live rfl

/-- A state in reset is legal (70_reset_and_hazards.md R260). -/
theorem holdReset_inv (s : State) : (holdReset s).Inv :=
  resetStateIsLegal.of_readOnlyPart rfl (fun _ => rfl) (fun _ => rfl)

/-- The state a release of reset leaves is legal (70_reset_and_hazards.md R260). -/
theorem releaseReset_inv (s : State) : (releaseReset s).Inv :=
  resetStateIsLegal.of_readOnlyPart rfl (fun _ => rfl) (resetHeld_of_live rfl)

/-- An action of the outside world leads from a legal state to one, and from any state while reset is asserted
(20_memory.md R64, 70_reset_and_hazards.md R260). -/
theorem hostStep_keeps_inv {a : HostAction} {s t : State} (h : s.inReset = false → s.Inv)
    (ha : hostStep a s = .next t) : t.Inv := by
  rcases hostStep_cases ha with ⟨-, rfl | ⟨-, rfl⟩⟩ | ⟨-, -, rfl⟩ | ⟨hr, x, rfl⟩ | ⟨hr, -, rfl⟩ | ⟨hr, -, rfl⟩
  · exact holdReset_inv s
  · exact releaseReset_inv s
  · exact holdReset_inv s
  · exact (h hr).of_readOnlyPart (portAccess_readOnlyPart x s) (portAccess_wait (h hr).waitPending x)
      (resetHeld_of_live ((portAccess_inReset x s).trans hr))
  · exact (h hr).of_readOnlyPart (pollTurn_readOnlyPart s) (pollTurn_wait (h hr).waitPending)
      (resetHeld_of_live ((pollTurn_inReset s).trans hr))
  · exact h hr

/-! ### Commands -/

/-- The word of a command that reports an error explains the error (60_exceptions.md R230, R240). -/
theorem errorExplained_of_errorOf {v : Word} {i : Instr} {f : Fsm} {x : Err} (hi : decode v = .ok i)
    (hx : errorOf i f = some x) : errorExplained x v = true := by
  cases i with
  | ksched | cipher | round | clear => exact absurd hx (Option.some_ne_none _).symm
  | abortSrc | abortSnk =>
    obtain rfl := Option.some.inj hx
    simp [errorExplained, hi]
  | feistel | encStart | encData | decStart | decData =>
    simp only [errorOf] at hx
    split_ifs at hx
    all_goals
      obtain rfl := Option.some.inj hx
      simp [errorExplained, hi] <;> grind

/-- An error entry with a word that explains the error leads to a legal state (60_exceptions.md R236). -/
theorem errorEntry_inv {x : Err} {v : Word} {s : State} (h : s.Inv) (hr : s.inReset = false) (hx : x ≠ .noError)
    (hv : errorExplained x v = true) : (errorEntry x v s).Inv where
  errIffError := iff_of_true hx rfl
  errcmdExplained := hv
  idleChain := Fsm.noConfusion
  olenLegal := .inl (Nat.zero_le 16)
  spareOutput hlive := absurd rfl hlive
  waitPending := h.waitPending
  resetHeld := resetHeld_of_live hr

/-- CLEAR leads to a legal state (44_control.md R215). -/
theorem leaveError_inv {s : State} (h : s.Inv) (hr : s.inReset = false) : (leaveError s).Inv where
  errIffError := by simp
  errcmdExplained := rfl
  idleChain _ := ⟨rfl, rfl⟩
  olenLegal := .inl (Nat.zero_le 16)
  spareOutput _ _ := ⟨rfl, rfl⟩
  waitPending := h.waitPending
  resetHeld := resetHeld_of_live hr

/-- A success emits two blocks, or at most one and leaves output block 1 zero (10_state.md R34). -/
theorem Succeeds.output_cases {i : Instr} {s t : State} (h : Succeeds i s t) :
    (t.olen.val ≤ 16 ∧ t.dout2 = 0 ∧ t.dout3 = 0) ∨ t.olen.val = 32 := by
  cases h with
  | ksched | feistel | cipher | round | decStart | decNone =>
    exact .inl ⟨by simp [kschedEffect, cipherEffect, roundEffect], rfl, rfl⟩
  | encStart | encOne | encNone => exact .inl (by simp)
  | encTwo => exact .inr (by simp)
  | decOne => exact .inl ⟨by simp [decDataBody]; split <;> omega, by simp [decDataBody], by simp [decDataBody]⟩

/-- A success that ends in IDLE started there and keeps the chaining vector (43_cbc_mode.md R170). -/
theorem Succeeds.chain_of_idle {i : Instr} {s t : State} (h : Succeeds i s t) (ht : t.fsm = .idle) :
    s.fsm = .idle ∧ t.cv0 = s.cv0 ∧ t.cv1 = s.cv1 := by
  have hfsm : fsmAfter i s.fsm = .idle := h.fsm.symm.trans ht
  cases h with
  | ksched | feistel | cipher | round => exact ⟨hfsm, rfl, rfl⟩
  | encStart | encTwo | decNone => exact absurd hfsm Fsm.noConfusion
  | encOne | encNone | decStart | decOne =>
    simp only [fsmAfter] at hfsm
    split at hfsm <;> exact absurd hfsm Fsm.noConfusion

/-- A success leads from a legal state outside ERROR to one (43_cbc_mode.md R170). -/
theorem Succeeds.keeps_inv {i : Instr} {s t : State} (hok : Succeeds i s t) (h : s.Inv) (hr : s.inReset = false)
    (hlive : s.fsm ≠ .error) : t.Inv := by
  obtain ⟨-, hinReset, hpending, hwait⟩ := State.hostPart_inj hok.hostPart
  obtain ⟨herr, herrcmd⟩ := hok.keeps_err
  constructor
  · rw [herr]
    exact iff_of_false (mt h.errIffError.1 hlive) (hok.fsm_ne_error hlive)
  · rw [herr, herrcmd]
    exact h.errcmdExplained
  · intro hidle
    obtain ⟨hs, hc0, hc1⟩ := hok.chain_of_idle hidle
    rw [hc0, hc1]
    exact h.idleChain hs
  · exact hok.output_cases.imp_left And.left
  · intro _ hle
    rcases hok.output_cases with ⟨-, hspare⟩ | h32
    · exact hspare
    · omega
  · rw [hpending, hwait]
    exact h.waitPending
  · exact resetHeld_of_live (hinReset.trans hr)

/-- The rule of every word, command or not, leads from a legal state to one (30_encoding.md R85). -/
theorem runWord_keeps_inv {v : Word} {s u : State} (h : s.Inv) (hr : s.inReset = false)
    (hu : runWord v s = .next u) : u.Inv := by
  rcases runWord_cases v s with ⟨i, hi, hrun⟩ | ⟨e, he, hrun⟩
  · rcases exec_cases (hrun.symm.trans hu) with ⟨-, -, rfl⟩ | ⟨-, rfl⟩ | ⟨-, x, hx, rfl⟩ | ⟨hlive, -, -, hok⟩
    · exact h
    · exact leaveError_inv h hr
    · rw [encode_eq_of_decode hi]
      exact errorEntry_inv h hr (fun hno => errorOf_ne_noError i s.fsm (hno ▸ hx)) (errorExplained_of_errorOf hi hx)
    · exact hok.keeps_inv h hr hlive
  · obtain rfl := Host.Outcome.next.inj (hrun.symm.trans hu)
    rcases unlessError_cases (errorEntry .illegalCmd v) s with ⟨-, heq⟩ | ⟨-, heq⟩ <;> rw [heq]
    · exact h
    · exact errorEntry_inv h hr Err.noConfusion (by simp [errorExplained, he])

/-- Settles O31: the engine by `runWord_keeps_inv`, the outside world by `hostStep_keeps_inv`. -/
theorem stepKeepsLegalStates : Obligations.StepKeepsLegalStates := by
  intro s t h hstep
  rcases step_cases hstep with rfl | ⟨v, u, -, hr, hu, rfl⟩ | ⟨a, rest, -, -, ha⟩
  · exact h
  · obtain ⟨-, hkept, -⟩ := State.hostPart_inj (runWord_hostPart hu)
    exact (runWord_keeps_inv h hr hu).of_readOnlyPart rfl (fun _ => rfl) (resetHeld_of_live (hkept.trans hr))
  · refine hostStep_keeps_inv (fun hr => ?_) ha
    exact h.of_readOnlyPart rfl (fun hp => by simp [h.waitPending hp]) (resetHeld_of_live hr)

end Sys2Proof.Machine
end

section
/-! Steps: whose turn it is, the engine's step and the host's next action (30_encoding.md R85, 20_memory.md R65). -/

namespace Sys2Proof.Machine

/-! ### One step, turn by turn -/

/-- With a command pending, reset released, and no action left or the window used up, the step is the
engine's (log 3). -/
theorem step_eq_engineStep {s : State} {v : Word} (hlive : s.inReset = false) (hp : s.pending = some v)
    (hw : s.todo = [] ∨ s.wait = 0) : step s = engineStep v s := by
  rcases turn_cases s with ⟨-, -, hnone | hr⟩ | ⟨w, hturn, hw, -, -⟩ | ⟨a, rest, -, htodo, hnone | hr | hne⟩
  · simp [hp] at hnone
  · simp [hlive] at hr
  · obtain rfl : w = v := Option.some.inj (hw.symm.trans hp)
    simp only [step, hturn]
  · simp [hp] at hnone
  · simp [hlive] at hr
  · simp [htodo, hne] at hw

/-- When the engine does not move the step is the next action of the outside world (20_memory.md R65). -/
theorem step_eq_hostStep {s : State} {a : HostAction} {rest : List HostAction} (htodo : s.todo = a :: rest)
    (hstill : s.pending = none ∨ s.inReset = true ∨ s.wait ≠ 0) :
    step s = hostStep a { s with todo := rest, wait := s.wait - 1 } := by
  rcases turn_cases s with ⟨-, hnil, -⟩ | ⟨v, -, hp, hlive, hnil | hw⟩ | ⟨b, bs, hturn, htodo', -⟩
  · simp [htodo] at hnil
  · simp [htodo] at hnil
  · simp [hp, hlive, hw] at hstill
  · obtain ⟨rfl, rfl⟩ := List.cons.inj (htodo.symm.trans htodo')
    simp only [step, hturn, outsideStep]

/-- With no action to come and nothing pending the step holds the state (60_exceptions.md R248). -/
theorem step_eq_self {s : State} (htodo : s.todo = []) (hp : s.pending = none) : step s = .next s := by
  rcases turn_cases s with ⟨hturn, -, -⟩ | ⟨v, -, hv, -, -⟩ | ⟨a, rest, -, hcons, -⟩
  · simp only [step, hturn]
  · simp [hp] at hv
  · simp [htodo] at hcons

/-- Settles O7: the step is the engine's, and the word decodes or is illegal. -/
theorem stepRunsPendingCommand : Obligations.StepRunsPendingCommand := by
  intro s v hlive hp hw
  have hstep := step_eq_engineStep hlive hp hw
  refine ⟨hstep, fun i hi => ?_, fun e he hs => ?_, fun e he hs => ?_⟩
  · obtain ⟨t, ht⟩ := exec_next i s
    exact ⟨t, ht, hstep.trans (engineStep_of_decode hi ht)⟩
  · exact hstep.trans (engineStep_illegal_of_live hs he)
  · rw [hstep, engineStep_illegal he, unlessError_of_error hs]
    rfl

/-! ### The next action -/

/-- BUSY is 0 exactly while no command is pending (10_state.md R26). -/
theorem busy_eq_false_iff (s : State) : s.busy = false ↔ s.pending = none :=
  Option.isSome_eq_false_iff.trans Option.isNone_iff_eq_none

/-- BUSY is 1 exactly while a command is pending (10_state.md R26). -/
theorem busy_eq_true_iff (s : State) : s.busy = true ↔ s.pending ≠ none :=
  Option.isSome_iff_ne_none

/-- Settles O8: the steps of the outside world and of nobody, and a POLL by `pollTurn_cases`. -/
theorem stepPerformsNextAction : Obligations.StepPerformsNextAction := by
  refine ⟨fun s a rest => step_eq_hostStep, fun s => step_eq_self,
    fun s hlive => ⟨pollTurn s, hostStep_live hlive, ?_⟩⟩
  rcases pollTurn_cases s with ⟨hb, hpoll⟩ | ⟨hb, hpoll⟩ <;> rw [hpoll]
  · exact ⟨rfl, ⟨rfl, rfl⟩, fun _ => rfl, fun hnone => absurd hnone ((busy_eq_true_iff s).1 hb)⟩
  · exact ⟨rfl, ⟨rfl, rfl⟩, fun hp => absurd ((busy_eq_false_iff s).1 hb) hp, fun _ => rfl⟩

/-! ### While a command is pending -/

/-- While BUSY a port access changes WIB, the read log and the draws only (70_reset_and_hazards.md R266, R267). -/
theorem portAccess_busy {s : State} (hb : s.busy = true) (x : Access) :
    portAccess x s =
      { s with reads := (portAccess x s).reads, draws := (portAccess x s).draws, wib := (portAccess x s).wib } := by
  rcases portAccess_cases x s with ⟨idx, h⟩ | ⟨-, h⟩ | ⟨hidle, -⟩
  · rw [h]; rfl
  · rw [h]
  · exact absurd (hb.symm.trans hidle) Bool.noConfusion

/-- A turn of a POLL changes the actions to come, the read log and the draws only (30_encoding.md R89). -/
theorem pollTurn_eq (s : State) :
    pollTurn s =
      { s with todo := (pollTurn s).todo, reads := (pollTurn s).reads, draws := (pollTurn s).draws } := by
  rcases pollTurn_cases s with ⟨-, h⟩ | ⟨-, h⟩ <;> rw [h] <;> rfl

/-- An action of the outside world that leaves the pending command pending is no reset, and changes WIB, the actions to
come, the read log and the draws only (20_memory.md R65, 70_reset_and_hazards.md R266). -/
theorem hostStep_busy {a : HostAction} {s t : State} (h : hostStep a s = .next t) (hs : s.pending ≠ none)
    (ht : t.pending ≠ none) :
    t = { s with todo := t.todo, reads := t.reads, draws := t.draws, wib := t.wib } := by
  rcases hostStep_cases h with ⟨-, rfl | ⟨-, rfl⟩⟩ | ⟨-, -, rfl⟩ | ⟨-, x, rfl⟩ | ⟨-, -, rfl⟩ | ⟨-, -, rfl⟩
  · exact absurd rfl ht
  · exact absurd rfl ht
  · exact absurd rfl ht
  · rw [portAccess_busy ((busy_eq_true_iff s).2 hs) x]
  · rw [pollTurn_eq s]
  · rfl

/-- Settles O13: the engine's step ends the pending command, so the step is the outside world's. -/
theorem registersHeldWhileBusy : Obligations.RegistersHeldWhileBusy := by
  intro s t v hs hstep ht
  rcases step_cases hstep with rfl | ⟨_, u, -, -, -, rfl⟩ | ⟨a, rest, -, -, ha⟩
  · rfl
  · exact absurd ht.symm (Option.some_ne_none v)
  · have hkept := hostStep_busy ha (by simp [hs]) (by simp [ht])
    rw [hkept]

end Sys2Proof.Machine
end

section
/-! Runs of host programs of port accesses and POLLs: commands complete and programs end (70_reset_and_hazards.md R270,
R272). -/

namespace Sys2Proof.Machine

/-! ### One step of a plain program -/

/-- Reset is released, and only port accesses and POLLs are to come. -/
def PlainProgram (s : State) : Prop := s.inReset = false ∧ ∀ a ∈ s.todo, plainAction a = true

@[simp] theorem writeReg_todo (r : Reg) (v : Word) (s : State) : (writeReg r v s).todo = s.todo := by
  cases r <;> rfl

/-- A port access adds no action (20_memory.md R65). -/
@[simp] theorem portAccess_todo (x : Access) (s : State) : (portAccess x s).todo = s.todo := by
  rcases portAccess_cases x s with ⟨idx, h⟩ | ⟨-, h⟩ | ⟨-, r, v, h⟩
  · rw [h, hostRead_todo]
  · rw [h]
  · rw [h, writeReg_todo]

/-- While BUSY a port access or a POLL leaves the pending command and its window; the POLL stays the next action
(20_memory.md R65, R66). -/
theorem hostStep_plain_busy {a : HostAction} {s : State} (hlive : s.inReset = false) (ha : plainAction a = true)
    (hp : s.pending ≠ none) :
    ∃ t, hostStep a s = .next t ∧ t.inReset = false ∧ (t.pending = s.pending ∧ t.wait = s.wait) ∧
      (t.todo = s.todo ∨ t.todo = .poll :: s.todo) := by
  rw [hostStep_live hlive]
  have hb := (busy_eq_true_iff s).2 hp
  cases a with
  | access x =>
    refine ⟨_, rfl, (portAccess_inReset x s).trans hlive, ?_, .inl (portAccess_todo x s)⟩
    rw [portAccess_busy hb x]
    exact ⟨rfl, rfl⟩
  | poll =>
    obtain ⟨-, hpoll⟩ | ⟨hidle, -⟩ := pollTurn_cases s
    · exact ⟨_, congrArg Host.Outcome.next hpoll, hlive, ⟨rfl, rfl⟩, .inr rfl⟩
    · exact absurd (hb.symm.trans hidle) Bool.noConfusion
  | bus | resetAssert | resetRelease => exact absurd ha Bool.noConfusion

/-- While BUSY = 0 a port access or a POLL is over after one turn (20_memory.md R65, R66). -/
theorem hostStep_plain_idle {a : HostAction} {s : State} (hlive : s.inReset = false) (ha : plainAction a = true)
    (hp : s.pending = none) : ∃ t, hostStep a s = .next t ∧ t.inReset = false ∧ t.todo = s.todo := by
  rw [hostStep_live hlive]
  have hb := (busy_eq_false_iff s).2 hp
  cases a with
  | access x => exact ⟨_, rfl, (portAccess_inReset x s).trans hlive, portAccess_todo x s⟩
  | poll =>
    obtain ⟨hbusy, -⟩ | ⟨-, hpoll⟩ := pollTurn_cases s
    · exact absurd (hb.symm.trans hbusy) Bool.noConfusion
    · exact ⟨_, congrArg Host.Outcome.next hpoll, hlive, rfl⟩
  | bus | resetAssert | resetRelease => exact absurd ha Bool.noConfusion

/-- The engine's step completes the pending command of a plain program and leaves the program (log 3). -/
theorem step_plain_engine {s : State} {v : Word} (h : PlainProgram s) (hv : s.pending = some v)
    (hengine : s.todo = [] ∨ s.wait = 0) :
    ∃ t, step s = .next t ∧ PlainProgram t ∧ t.todo = s.todo ∧ t.pending = none := by
  obtain ⟨hlive, hplain⟩ := h
  obtain ⟨u, hu, hstep⟩ := engineStep_next v s
  obtain ⟨htodo, hreset, -⟩ := State.hostPart_inj (runWord_hostPart hu)
  refine ⟨complete u, (step_eq_engineStep hlive hv hengine).trans hstep, ⟨hreset.trans hlive, ?_⟩, htodo, rfl⟩
  rw [complete_todo, htodo]
  exact hplain

/-- With a command pending and its window not used up, the next action of a plain program uses up a place of the window
and adds no action (70_reset_and_hazards.md R270; log 3). -/
theorem step_plain_window {s : State} {a : HostAction} {rest : List HostAction} (h : PlainProgram s)
    (hp : s.pending ≠ none) (htodo : s.todo = a :: rest) (hwait : s.wait ≠ 0) :
    ∃ t, step s = .next t ∧ PlainProgram t ∧ t.todo.length ≤ s.todo.length ∧ t.pending ≠ none ∧
      t.wait < s.wait := by
  obtain ⟨hlive, hplain⟩ := h
  rw [htodo, List.forall_mem_cons] at hplain
  obtain ⟨ha, hrest⟩ := hplain
  obtain ⟨t, ht, hreset, ⟨htp, htw⟩, htt⟩ :=
    hostStep_plain_busy (s := { s with todo := rest, wait := s.wait - 1 }) hlive ha hp
  have hlater : (∀ b ∈ t.todo, plainAction b = true) ∧ t.todo.length ≤ (a :: rest).length := by
    rcases htt with htt | htt <;> rw [htt]
    · exact ⟨hrest, Nat.le_succ _⟩
    · exact ⟨List.forall_mem_cons.2 ⟨rfl, hrest⟩, Nat.le_refl _⟩
  obtain ⟨hplain', hlen⟩ := hlater
  refine ⟨t, (step_eq_hostStep htodo (.inr (.inr hwait))).trans ht, ⟨hreset, hplain'⟩, htodo ▸ hlen,
    by rwa [htp], ?_⟩
  rw [htw]
  exact Nat.sub_one_lt hwait

/-- With a command pending a step of a plain program completes it or uses up a place of its window, and adds no action
(70_reset_and_hazards.md R270; log 3). -/
theorem step_plain_busy {s : State} (h : PlainProgram s) (hp : s.pending ≠ none) :
    ∃ t, step s = .next t ∧ PlainProgram t ∧ t.todo.length ≤ s.todo.length ∧
      (t.pending = none ∨ (t.pending ≠ none ∧ t.wait < s.wait)) := by
  obtain ⟨v, hv⟩ := Option.ne_none_iff_exists'.1 hp
  by_cases hengine : s.todo = [] ∨ s.wait = 0
  · obtain ⟨t, hstep, ht, htodo, hnone⟩ := step_plain_engine h hv hengine
    exact ⟨t, hstep, ht, (congrArg List.length htodo).le, .inl hnone⟩
  · obtain ⟨hne, hwait⟩ := not_or.1 hengine
    obtain ⟨a, rest, htodo⟩ := List.exists_cons_of_ne_nil hne
    obtain ⟨t, hstep, ht, hlen, hwindow⟩ := step_plain_window h hp htodo hwait
    exact ⟨t, hstep, ht, hlen, .inr hwindow⟩

/-- With nothing pending a step of a plain program performs its next action (20_memory.md R65). -/
theorem step_plain_idle {s : State} {a : HostAction} {rest : List HostAction} (h : PlainProgram s)
    (hp : s.pending = none) (htodo : s.todo = a :: rest) :
    ∃ t, step s = .next t ∧ PlainProgram t ∧ t.todo = rest := by
  obtain ⟨hlive, hplain⟩ := h
  rw [htodo, List.forall_mem_cons] at hplain
  obtain ⟨ha, hrest⟩ := hplain
  obtain ⟨t, ht, hreset, htt⟩ :=
    hostStep_plain_idle (s := { s with todo := rest, wait := s.wait - 1 }) hlive ha hp
  exact ⟨t, (step_eq_hostStep htodo (.inl hp)).trans ht, ⟨hreset, htt ▸ hrest⟩, htt⟩

/-! ### Runs -/

/-- A run of `j` steps and a run of `k` steps from where it ends are a run of `j + k` steps. -/
theorem run_add {j k : Nat} {s t : State} (h : Sys2Proof.core.run j s = .next t) :
    Sys2Proof.core.run (j + k) s = Sys2Proof.core.run k t := by
  induction j generalizing s with
  | zero =>
    obtain rfl := Host.Outcome.next.inj h
    rw [Nat.zero_add]
  | succ j ih =>
    rw [Nat.add_right_comm]
    simp only [Host.Core.run] at h ⊢
    cases hs : Sys2Proof.core.step s with
    | next u =>
      simp only [hs] at h ⊢
      exact ih h
    | fault r => simp [hs] at h
    | refused r => simp [hs] at h

/-- A pending command of a plain program completes within its window and one step (70_reset_and_hazards.md R270). -/
theorem run_completes {s : State} (h : PlainProgram s) (hp : s.pending ≠ none) :
    ∃ k t, k ≤ s.wait + 1 ∧ Sys2Proof.core.run k s = .next t ∧ PlainProgram t ∧ t.pending = none ∧
      t.todo.length ≤ s.todo.length := by
  induction hw : s.wait using Nat.strong_induction_on generalizing s with
  | _ w ih =>
    obtain ⟨u, hstep, hu, hlen, hnone | ⟨hsome, hlt⟩⟩ := step_plain_busy h hp
    · exact ⟨1, u, Nat.le_add_left 1 w, run_succ hstep, hu, hnone, hlen⟩
    · obtain ⟨k, t, hk, hrun, ht, hnone, hlen'⟩ := ih u.wait (hw ▸ hlt) hu hsome rfl
      exact ⟨k + 1, t, by omega, (run_succ hstep).trans hrun, ht, hnone, hlen'.trans hlen⟩

/-- A plain program comes to a state with nothing pending, no action added (70_reset_and_hazards.md R270). -/
theorem run_settles {s : State} (h : PlainProgram s) :
    ∃ k t, Sys2Proof.core.run k s = .next t ∧ PlainProgram t ∧ t.pending = none ∧
      t.todo.length ≤ s.todo.length := by
  by_cases hp : s.pending = none
  · exact ⟨0, s, run_zero s, h, hp, Nat.le_refl _⟩
  · obtain ⟨k, t, -, hrest⟩ := run_completes h hp
    exact ⟨k, t, hrest⟩

/-- A plain program of at most `n` actions comes to its end: what is pending completes, and the action after it makes the
program shorter (70_reset_and_hazards.md R272). -/
theorem run_ends (n : Nat) {s : State} (h : PlainProgram s) (hn : s.todo.length ≤ n) :
    ∃ k t, Sys2Proof.core.run k s = .next t ∧ runEnded t := by
  induction n generalizing s with
  | zero =>
    obtain ⟨k, t, hrun, -, hnone, hlen⟩ := run_settles h
    exact ⟨k, t, hrun, List.length_eq_zero_iff.1 (by omega), hnone⟩
  | succ n ih =>
    obtain ⟨k, t, hrun, ht, hnone, hlen⟩ := run_settles h
    cases htodo : t.todo with
    | nil => exact ⟨k, t, hrun, htodo, hnone⟩
    | cons a rest =>
      obtain ⟨u, hstep, hu, hrest⟩ := step_plain_idle ht hnone htodo
      rw [htodo, List.length_cons] at hlen
      obtain ⟨j, z, hrun', hend⟩ := ih hu (by rw [hrest]; omega)
      exact ⟨k + (j + 1), z, ((run_add hrun).trans (run_succ hstep)).trans hrun', hend⟩

/-- Settles O11, by `run_completes`. -/
theorem pendingCommandCompletes : Obligations.PendingCommandCompletes := by
  intro s v hlive hp hplain
  obtain ⟨k, t, hk, hrun, -, hnone, -⟩ := run_completes ⟨hlive, hplain⟩ (by simp [hp])
  exact ⟨k, t, hk, hrun, hnone⟩

/-- Settles O12, by `run_ends` for the length of the program. -/
theorem hostProgramsReachTheirEnd : Obligations.HostProgramsReachTheirEnd :=
  fun s hlive hplain => run_ends s.todo.length ⟨hlive, hplain⟩ (Nat.le_refl _)

end Sys2Proof.Machine
end

section
/-! The port: reads and writes of the host, the byte bus, the reset input and the fields of STATUS (10_state.md,
20_memory.md, 70_reset_and_hazards.md R260, R267). -/

namespace Sys2Proof.Machine

/-! ### Reads -/

/-- While BUSY = 0 a read returns the value held (10_state.md R21). -/
theorem readValue_idle {s : State} (hp : s.pending = none) (r : Reg) : readValue s r = readReg s r :=
  if_neg (by simp [(busy_eq_false_iff s).2 hp])

section
variable {s : State} (hp : s.pending ≠ none)
include hp

/-- While BUSY, STATUS reads BUSY, WIB and bits of a free word (70_reset_and_hazards.md R267; log 9). -/
theorem readValue_status_busy : readValue s .status = s.busyStatusWord (Config.busyRead s.draws) := by
  simp [readValue, (busy_eq_true_iff s).2 hp]

/-- While BUSY a result register reads a free word (70_reset_and_hazards.md R267; log 2). -/
theorem readValue_free_busy {r : Reg} (hr : r.freeWhileBusy = true) : readValue s r = Config.busyRead s.draws := by
  have hne : r ≠ .status := by
    rintro rfl
    exact Bool.noConfusion hr
  simp [readValue, (busy_eq_true_iff s).2 hp, hne, hr]

/-- While BUSY a register outside STATUS and the result registers reads the value held
(70_reset_and_hazards.md R267). -/
theorem readValue_held_busy {r : Reg} (hne : r ≠ .status) (hr : r.freeWhileBusy = false) :
    readValue s r = readReg s r := by
  simp [readValue, (busy_eq_true_iff s).2 hp, hne, hr]

end

/-- CMD reads 0 (10_state.md R24). -/
theorem readValue_cmd (s : State) : readValue s .cmd = 0 := by
  by_cases hp : s.pending = none
  · exact readValue_idle hp .cmd
  · exact readValue_held_busy hp Reg.noConfusion rfl

/-- STATUS[14] is WIB (10_state.md R25). -/
theorem statusLayout_wib (wib : Bool) (o : BitVec 6) (e : BitVec 4) (f : BitVec 3) (b : Bool) :
    (statusLayout wib o e f b).getLsbD 14 = wib := by
  rw [getLsbD_statusLayout]
  rfl

/-- Settles O15: STATUS by its layout, the result registers and the others by what is free while BUSY. -/
theorem readsWhileBusy : Obligations.ReadsWhileBusy := by
  intro s hp
  have hstatus := readValue_status_busy hp
  obtain ⟨hfsm, herr, holen⟩ := statusLayout_fields s.wib ((Config.busyRead s.draws).extractLsb' 8 6)
    ((Config.busyRead s.draws).extractLsb' 4 4) ((Config.busyRead s.draws).extractLsb' 1 3) true
  refine ⟨?_, ?_, ⟨Config.busyRead s.draws, rfl, ?_⟩, readValue_cmd s⟩
  · rw [hstatus]
    exact ⟨statusLayout_busy .., statusLayout_wib ..⟩
  · have hheld := fun r => readValue_held_busy hp (r := r)
    exact ⟨hheld .ctrl Reg.noConfusion rfl, hheld .key0 Reg.noConfusion rfl, hheld .key1 Reg.noConfusion rfl,
      hheld .din0 Reg.noConfusion rfl, hheld .din1 Reg.noConfusion rfl, hheld .eseed0 Reg.noConfusion rfl,
      hheld .eseed1 Reg.noConfusion rfl⟩
  · rw [hstatus]
    refine ⟨hfsm, herr, holen, fun r hr => readValue_free_busy hp ?_⟩
    rcases hr with hr | ⟨i, rfl⟩
    · fin_cases hr <;> rfl
    · rfl

/-- Every index is that of the register at it (10_state.md R21). -/
theorem index_ofIndex : ∀ idx : BitVec 5, (Reg.ofIndex idx).index = idx := by
  decide

/-- With reset released a host read is answered (20_memory.md R61, R64). -/
theorem hostStep_read {s : State} (hlive : s.inReset = false) (idx : BitVec 5) :
    hostStep (.access (.read idx)) s = .next (hostRead idx s) :=
  hostStep_live hlive

/-- SK[i] stands at index 16 + i (10_state.md R21). -/
theorem index_sk_toNat (i : Fin 16) : (Reg.sk i).index.toNat = 16 + i.val := by
  revert i
  decide

/-- Settles O16: the read is `hostRead`, the map `index_ofIndex`, and the registers read what `readReg` names. -/
theorem readReturnsValueAndChangesNothing : Obligations.ReadReturnsValueAndChangesNothing := by
  refine ⟨fun s r hlive => ?_, ⟨by decide, by decide, by decide, by decide, index_sk_toNat⟩,
    fun idx => ⟨_, index_ofIndex idx, rfl⟩,
    fun s => ⟨rfl, ⟨rfl, rfl⟩, ⟨rfl, rfl⟩, ⟨rfl, rfl, rfl, rfl⟩, ⟨rfl, rfl⟩, ⟨rfl, rfl⟩, fun _ => rfl⟩⟩
  refine ⟨_, hostStep_read hlive r.index, rfl, ?_, rfl, fun hp => readValue_idle hp r⟩
  rw [hostRead_reads, ofIndex_index]

/-! ### Writes while BUSY = 0 -/

/-- The registers R21 marks RW, CTRL and CMD apart. -/
def Reg.plainRW (r : Reg) : Prop := r ∈ ([.key0, .key1, .din0, .din1, .eseed0, .eseed1] : List Reg) ∨ ∃ i, r = .sk i

/-- An RW register reads back the value written (20_memory.md R64). -/
theorem readReg_writeReg_same {r : Reg} (hr : r.plainRW) (v : Word) (s : State) : readReg (writeReg r v s) r = v := by
  rcases hr with hr | ⟨i, rfl⟩
  · fin_cases hr <;> rfl
  · exact Vector.getElem_set_self i.isLt

/-- A write of an RW register leaves every other one as it was (20_memory.md R64). -/
theorem readReg_writeReg_other {r r' : Reg} (hr : r.plainRW) (hne : r' ≠ r) (v : Word) (s : State) :
    readReg (writeReg r v s) r' = readReg s r' := by
  rcases hr with hr | ⟨i, rfl⟩
  · cases r' with
    | key0 | key1 | din0 | din1 | eseed0 | eseed1 => fin_cases hr <;> simp [readReg, writeReg] at hne ⊢
    | _ => fin_cases hr <;> rfl
  · cases r' with
    | sk j => exact Vector.getElem_set_ne i.isLt j.isLt fun hij => hne (congrArg Reg.sk (Fin.ext hij.symm))
    | _ => rfl

/-- A write of an RW register writes no field but those of RW registers (20_memory.md R64). -/
theorem writeReg_frame {r : Reg} (hr : r.plainRW) (v : Word) (s : State) :
    writeReg r v s = { s with
      key0 := (writeReg r v s).key0, key1 := (writeReg r v s).key1, din0 := (writeReg r v s).din0
      din1 := (writeReg r v s).din1, eseed0 := (writeReg r v s).eseed0, eseed1 := (writeReg r v s).eseed1
      sk := (writeReg r v s).sk } := by
  rcases hr with hr | ⟨i, rfl⟩
  · fin_cases hr <;> rfl
  · rfl

/-- Settles O17: the write is `writeReg`, which does nothing to an RO register. -/
theorem writeWhenIdle : Obligations.WriteWhenIdle := by
  intro s r v hp hlive
  rw [hostStep_write_idle hp hlive]
  refine ⟨fun hro => ?_, fun hr => ⟨_, rfl, readReg_writeReg_same hr v s,
    fun r' hne => readReg_writeReg_other hr hne v s, writeReg_frame hr v s⟩⟩
  fin_cases hro <;> rfl

/-- Settles O19: while BUSY = 0 the write is that of CMD, while BUSY it is `hostStep_write_busy`. -/
theorem cmdWriteStartsCommand : Obligations.CmdWriteStartsCommand :=
  ⟨fun _ v hp hlive => ⟨_, hostStep_write_idle hp hlive .cmd v, rfl, rfl⟩,
    fun _ v _ hp hlive => hostStep_write_busy _ v (by simp [hp]) hlive, readValue_cmd⟩

/-! ### The byte bus -/

/-- An access of another size or at no multiple of 8 names no index (20_memory.md R63). -/
theorem busIndex_foreign {addr size : Nat} (h : size ≠ 8 ∨ addr % 8 ≠ 0) : ∃ r, busIndex addr size = .error r := by
  by_cases hsize : size = 8
  · exact ⟨.accessMisaligned, by simp [busIndex, hsize, h.resolve_left (by simp [hsize])]⟩
  · exact ⟨.accessNotWholeRegister, by simp [busIndex, hsize]⟩

/-- Index idx stands at byte offset 8·idx (20_memory.md R62). -/
theorem busIndex_register (idx : BitVec 5) : busIndex (Config.kgpBase + 8 * idx.toNat) 8 = .ok idx := by
  have hidx : idx.toNat < 32 := idx.isLt
  have halign : (Config.kgpBase + 8 * idx.toNat) % 8 = 0 := by
    unfold Config.kgpBase
    omega
  have hinside : ¬(Config.kgpBase + 8 * idx.toNat < Config.kgpBase ∨
      Config.kgpBase + 256 ≤ Config.kgpBase + 8 * idx.toNat) := by omega
  have hoffset : (Config.kgpBase + 8 * idx.toNat - Config.kgpBase) / 8 = idx.toNat := by omega
  rw [busIndex, if_neg (by simp), if_neg (by simp [halign]), if_neg hinside, hoffset, BitVec.ofNat_toNat,
    BitVec.setWidth_eq]

/-- An aligned address outside the window names no index (93_implementation_defined.md I6). -/
theorem busIndex_outside {addr : Nat} (halign : addr % 8 = 0)
    (h : addr < Config.kgpBase ∨ Config.kgpBase + 256 ≤ addr) : busIndex addr 8 = .error .accessOutsideWindow := by
  simp [busIndex, halign, h]

section
variable {addr size : Nat}

/-- An address without an index is no port access (20_memory.md R63). -/
theorem portAccessOf_eq_error {r : Refusal} (h : busIndex addr size = .error r) (v : Word) :
    portAccessOf (.read addr size) = .error r ∧ portAccessOf (.write addr size v) = .error r := by
  simp [portAccessOf, h, Except.map]

/-- An address with an index is the port access of that index (20_memory.md R62). -/
theorem portAccessOf_eq_ok {idx : BitVec 5} (h : busIndex addr size = .ok idx) (v : Word) :
    portAccessOf (.read addr size) = .ok (.read idx) ∧ portAccessOf (.write addr size v) = .ok (.write idx v) := by
  simp [portAccessOf, h, Except.map]

end

/-- Settles O20: the port has no such access, in reset or not. -/
theorem foreignBusAccessesAreRefused : Obligations.ForeignBusAccessesAreRefused := by
  intro s addr size v h
  obtain ⟨r, hr⟩ := busIndex_foreign h
  obtain ⟨hread, hwrite⟩ := portAccessOf_eq_error hr v
  exact ⟨⟨r, hostStep_bus_refused hread s⟩, ⟨r, hostStep_bus_refused hwrite s⟩⟩

/-- Settles O21: inside the window the bus access is the port's, outside it the port has none. -/
theorem busAccessIsPortAccess : Obligations.BusAccessIsPortAccess := by
  refine ⟨Nat.mul_mod_right 256 _, fun s idx v => ?_, fun s addr v halign hout => ?_⟩
  · obtain ⟨hread, hwrite⟩ := portAccessOf_eq_ok (busIndex_register idx) v
    exact ⟨hostStep_bus_access hread s, hostStep_bus_access hwrite s⟩
  · obtain ⟨hread, hwrite⟩ := portAccessOf_eq_error (busIndex_outside halign hout) v
    exact ⟨hostStep_bus_refused hread s, hostStep_bus_refused hwrite s⟩

/-! ### The reset input -/

/-- While reset is asserted every action of the port but the release holds the reset state
(70_reset_and_hazards.md R260). -/
theorem hostStep_holds_reset {a : HostAction} {s : State} (hr : s.inReset = true) (ha : a ≠ .resetRelease)
    (hport : ∀ b, a = .bus b → ∃ x, portAccessOf b = .ok x) : hostStep a s = .next (holdReset s) := by
  rw [hostStep_inReset hr]
  cases a with
  | bus b =>
    obtain ⟨x, hx⟩ := hport b rfl
    simp [actionInReset, busAccessInReset, hx]
  | resetRelease => exact absurd rfl ha
  | access | poll | resetAssert => rfl

/-- Settles O22: the three actions are `holdReset` and `releaseReset`. -/
theorem resetInputRestoresState : Obligations.ResetInputRestoresState :=
  ⟨fun s _ => hostStep_resetAssert s, fun _ _ => hostStep_holds_reset, fun _ hr => hostStep_inReset hr⟩

/-! ### STATUS and the output -/

/-- Settles O24: the layout of STATUS bit by bit and field by field; OLEN is below 64, and the codes are a table. -/
theorem statusFieldsAtTheirBits : Obligations.StatusFieldsAtTheirBits := by
  refine ⟨fun s => ?_, by decide, by decide⟩
  have hstatus : readReg s .status = statusLayout s.wib (BitVec.ofNat 6 s.olen.val) s.err.code s.fsm.code s.busy := rfl
  obtain ⟨hfsm, herr, holen⟩ := statusLayout_fields s.wib (BitVec.ofNat 6 s.olen.val) s.err.code s.fsm.code s.busy
  have holen_lt : s.olen.val < 33 := s.olen.isLt
  rw [hstatus]
  refine ⟨statusLayout_busy .., hfsm, herr, ?_, statusLayout_wib .., fun k hk => ?_⟩
  · rw [holen, BitVec.toNat_ofNat, Nat.mod_eq_of_lt (by omega)]
  · rw [getLsbD_statusLayout, if_neg (by omega), if_neg (by omega), if_neg (by omega), if_neg (by omega),
      decide_eq_false (by omega), Bool.false_and]

/-- The bits of the output area: bit k is bit k mod 64 of DOUT[k div 64] (10_state.md R29). -/
theorem getLsbD_outArea (s : State) {k : Nat} (hk : k < 256) :
    s.outArea.getLsbD k = (([s.dout0, s.dout1, s.dout2, s.dout3] : List Word).getD (k / 64) 0).getLsbD (k % 64) := by
  have hq : k / 64 = 0 ∨ k / 64 = 1 ∨ k / 64 = 2 ∨ k / 64 = 3 := by omega
  simp only [State.outArea, BitVec.getLsbD_append]
  rcases hq with hq | hq | hq | hq <;> rw [hq]
  · rw [if_pos (by omega), Nat.mod_eq_of_lt (by omega)]
    rfl
  · rw [if_neg (by omega), if_pos (by omega), show k % 64 = k - 64 by omega]
    rfl
  · rw [if_neg (by omega), if_neg (by omega), if_pos (by omega), show k % 64 = k - 64 - 64 by omega]
    rfl
  · rw [if_neg (by omega), if_neg (by omega), if_neg (by omega), show k % 64 = k - 64 - 64 - 64 by omega]
    rfl

/-- Byte i of the output area lies in DOUT[i div 8] (10_state.md R29). -/
theorem byte_outArea_eq (s : State) {i : Nat} (hi : i < 32) :
    byte s.outArea i =
      (([s.dout0, s.dout1, s.dout2, s.dout3] : List Word).getD (i / 8) 0).extractLsb' (8 * (i % 8)) 8 := by
  apply BitVec.eq_of_getLsbD_eq
  intro k hk
  have hword : (8 * i + k) / 64 = i / 8 := by omega
  have hbit : (8 * i + k) % 64 = 8 * (i % 8) + k := by omega
  rw [getLsbD_byte, getLsbD_outArea s (by omega), hword, hbit, BitVec.getLsbD_extractLsb']

/-- Settles O25, by `byte_outArea_eq`. -/
theorem outputBytesLieInDout : Obligations.OutputBytesLieInDout := by
  intro s
  refine ⟨length_bytesOf .., fun i hi => ?_⟩
  have holen : s.olen.val < 33 := s.olen.isLt
  have hlt : i < s.output.length := by rwa [State.output, length_bytesOf]
  rw [List.getElem?_eq_getElem hlt, ← byte_outArea_eq s (by omega)]
  exact congrArg some (getElem_bytesOf s.outArea hlt)

end Sys2Proof.Machine
end

section
/-! Commands, result by result (40_feistel.md, 41_round_functions.md R128, 42_cipher_adapter.md R155, 44_control.md). -/

namespace Sys2Proof.Machine

/-! ### Control commands -/

/-- Settles O28: outside ERROR each abort is its error entry, with its own word. -/
theorem abortRecordsHostFault : Obligations.AbortRecordsHostFault :=
  fun _ => ⟨fun hlive => congrArg Host.Outcome.next (unlessError_of_live hlive),
    fun hlive => congrArg Host.Outcome.next (unlessError_of_live hlive),
    fun herr => ⟨exec_error herr Instr.noConfusion, exec_error herr Instr.noConfusion⟩⟩

/-- Settles O29: CLEAR is `leaveError`, which writes constants. -/
theorem clearReturnsToIdle : Obligations.ClearReturnsToIdle :=
  fun _ => ⟨_, rfl, rfl, rfl⟩

/-! ### One output block -/

/-- The output of one block: its two words, the other two 0 (10_state.md R34). -/
theorem setOutput_one_block (b : Block) (k : Nat) (s : State) :
    setOutput b 0 k s = { s with dout0 := w0 b, dout1 := w1 b, dout2 := 0, dout3 := 0, olen := Fin.ofNat 33 k } := rfl

/-- The output of two words (10_state.md R34). -/
theorem setOutput_two_words (lo hi : Word) (k : Nat) (s : State) :
    setOutput (blk lo hi) 0 k s =
      { s with dout0 := lo, dout1 := hi, dout2 := 0, dout3 := 0, olen := Fin.ofNat 33 k } := by
  rw [setOutput_one_block, w0_blk, w1_blk]

@[simp] theorem w0_inputBlock (s : State) : w0 s.inputBlock = s.din0 := w0_blk ..

@[simp] theorem w1_inputBlock (s : State) : w1 s.inputBlock = s.din1 := w1_blk ..

/-! ### ROUND -/

/-- Rotation to the left moves bit k to bit (k + s) mod n (00_scope.md R8). -/
theorem getLsbD_rotl_add_mod {n : Nat} (x : BitVec n) (s : Nat) {k : Nat} (hk : k < n) :
    (rotl x s).getLsbD ((k + s) % n) = x.getLsbD k := by
  have hn : 0 < n := by omega
  have hback : ((k + s) % n + (n - s % n)) % n = k := by
    have hs := Nat.mod_lt s hn
    calc ((k + s) % n + (n - s % n)) % n = (k + s % n + (n - s % n)) % n := by simp [Nat.add_mod]
      _ = (k + n) % n := by rw [Nat.add_assoc, Nat.add_sub_cancel' hs.le]
      _ = k := by rw [Nat.add_mod_right, Nat.mod_eq_of_lt hk]
  rw [getLsbD_rotl, decide_eq_true (Nat.mod_lt _ hn), Bool.true_and, hback]

/-- Rotation to the right moves bit (k + s) mod n to bit k (00_scope.md R8). -/
theorem getLsbD_rotr_of_lt {n : Nat} (x : BitVec n) (s : Nat) {k : Nat} (hk : k < n) :
    (rotr x s).getLsbD k = x.getLsbD ((k + s) % n) := by
  rw [getLsbD_rotr, decide_eq_true hk, Bool.true_and, Nat.add_mod_mod]

/-- ROUND outside ERROR applies the selected round function (41_round_functions.md R128). -/
theorem exec_round_of_live {s : State} (hlive : s.fsm ≠ .error) :
    exec .round s = .next { s with
      dout0 := roundFn Config.tables s.csel s.din0 s.din1, dout1 := 0, dout2 := 0, dout3 := 0, olen := 8 } :=
  congrArg Host.Outcome.next ((unlessError_of_live hlive).trans (setOutput_two_words ..))

/-- Settles O42: the rotations bit by bit, and ROUND for either value of CSEL. -/
theorem roundAppliesSelectedFunction : Obligations.RoundAppliesSelectedFunction := by
  refine ⟨fun n x s k hk => ⟨getLsbD_rotl_add_mod x s hk, getLsbD_rotr_of_lt x s hk⟩,
    fun s hlive => ⟨fun hcsel => ?_, fun hcsel => ?_⟩⟩
  · rw [exec_round_of_live hlive, hcsel]
    rfl
  · rw [exec_round_of_live hlive, hcsel]
    rfl

/-! ### FEISTEL -/

/-- FEISTEL outside ERROR with NR in 0..16 is the network over SK[0..NR-1] (40_feistel.md R105). -/
theorem exec_feistel_of_live {s : State} (hlive : s.fsm ≠ .error) (inv : Bool) {nr : Nat} (hnr : nr ≤ 16) :
    exec (.feistel inv nr) s =
      .next (setOutput (feistelBlock (roundFn Config.tables s.csel) (s.subkeys nr) s.inputBlock inv) 0 16 s) := by
  rcases feistelEffect_cases Config.tables inv nr (encode (.feistel inv nr)) s with ⟨hbig, -⟩ | ⟨-, heff⟩
  · omega
  · exact congrArg Host.Outcome.next ((unlessError_of_live hlive).trans heff)

/-- The network on the input block works on the words of DIN (40_feistel.md R101). -/
theorem feistelBlock_inputBlock (F : Word → Word → Word) (ks : List Word) (s : State) (inv : Bool) :
    feistelBlock F ks s.inputBlock inv = blk (feistel F ks s.din0 s.din1 inv).1 (feistel F ks s.din0 s.din1 inv).2 := by
  rw [feistelBlock, w0_inputBlock, w1_inputBlock]

/-- The network without rounds exchanges the halves (40_feistel.md R106). -/
theorem feistel_nil {n : Nat} (F : BitVec n → BitVec n → BitVec n) (l r : BitVec n) (inv : Bool) :
    feistel F [] l r inv = (r, l) := by
  cases inv <;> rfl

/-- Settles O45: `exec_feistel_of_live` on the words of DIN, and no round for NR = 0. -/
theorem feistelCommandResult : Obligations.FeistelCommandResult := by
  refine ⟨fun s inv nr hlive hnr => ⟨_, rfl, ?_⟩, fun s inv hlive => ?_⟩
  · rw [exec_feistel_of_live hlive inv hnr, feistelBlock_inputBlock, setOutput_two_words]
    rfl
  · have hnone : s.subkeys 0 = [] := rfl
    rw [exec_feistel_of_live hlive inv (Nat.zero_le 16), feistelBlock_inputBlock, hnone, feistel_nil,
      setOutput_two_words]
    rfl

/-- The output block loaded back into DIN. -/
def State.fedBack (s : State) : State := { s with din0 := s.dout0, din1 := s.dout1 }

@[simp] theorem State.fedBack_inputBlock (s : State) : s.fedBack.inputBlock = s.outBlock0 := rfl

/-- Settles O46: the second command works on the output block of the first with the same subkeys, and
`feistelBlock_feistelBlock_not` gives back the input block. -/
theorem feistelCommandRoundTrip : Obligations.FeistelCommandRoundTrip := by
  intro s inv nr hlive hnr
  have hfirst := exec_feistel_of_live hlive inv hnr
  generalize hout : feistelBlock (roundFn Config.tables s.csel) (s.subkeys nr) s.inputBlock inv = out at hfirst
  generalize ht : setOutput out 0 16 s = t at hfirst
  have hfsm : t.fedBack.fsm = s.fsm := by rw [← ht]; rfl
  have hcsel : t.fedBack.csel = s.csel := by rw [← ht]; rfl
  have hsk : t.fedBack.subkeys nr = s.subkeys nr := by rw [← ht]; rfl
  have hin : t.fedBack.inputBlock = out := by rw [← ht, State.fedBack_inputBlock, setOutput_outBlock0]
  have hsecond := exec_feistel_of_live (hfsm ▸ hlive) (!inv) hnr
  rw [hcsel, hsk, hin, ← hout, feistelBlock_feistelBlock_not] at hsecond
  exact ⟨t, _, hfirst, hsecond, w0_inputBlock s, w1_inputBlock s⟩

/-- Subkeys equal below index n have equal first n (40_feistel.md R105). -/
theorem subkeys_setSubkeys {s : State} {ks : Vector Word 16} {n : Nat}
    (h : ∀ i : Fin 16, i.val < n → ks[i] = s.sk[i]) : (setSubkeys ks s).subkeys n = s.subkeys n := by
  apply List.ext_getElem
  · simp [State.subkeys]
  · intro i hi _
    simp only [State.subkeys, List.length_take, Vector.length_toList] at hi
    simpa [State.subkeys] using h ⟨i, by omega⟩ (show i < n by omega)

/-- FEISTEL outside ERROR with NR above 16 is the error entry of BAD_ROUNDS (40_feistel.md R105). -/
theorem exec_feistel_of_gt {s : State} (hlive : s.fsm ≠ .error) (inv : Bool) {nr : Nat} (hnr : 16 < nr) :
    exec (.feistel inv nr) s = .next (errorEntry .badRounds (encode (.feistel inv nr)) s) := by
  rcases feistelEffect_cases Config.tables inv nr (encode (.feistel inv nr)) s with ⟨-, heff⟩ | ⟨hle, -⟩
  · exact congrArg Host.Outcome.next ((unlessError_of_live hlive).trans heff)
  · omega

/-- FEISTEL reads of SK its first NR subkeys only (40_feistel.md R105). -/
theorem exec_feistel_setSubkeys {s t : State} {ks : Vector Word 16} {inv : Bool} {nr : Nat}
    (hks : ∀ i : Fin 16, i.val < nr → ks[i] = s.sk[i]) (h : exec (.feistel inv nr) s = .next t) :
    exec (.feistel inv nr) (setSubkeys ks s) = .next (setSubkeys ks t) := by
  by_cases hs : s.fsm = .error
  · rw [exec_error hs Instr.noConfusion] at h
    obtain rfl := Host.Outcome.next.inj h
    exact exec_error hs Instr.noConfusion
  · have hs' : (setSubkeys ks s).fsm ≠ .error := hs
    by_cases hnr : nr ≤ 16
    · rw [exec_feistel_of_live hs inv hnr] at h
      obtain rfl := Host.Outcome.next.inj h
      rw [exec_feistel_of_live hs' inv hnr, subkeys_setSubkeys hks]
      rfl
    · rw [exec_feistel_of_gt hs inv (by omega)] at h
      obtain rfl := Host.Outcome.next.inj h
      exact exec_feistel_of_gt hs' inv (by omega)

/-- Settles O47, by `exec_feistel_setSubkeys`. -/
theorem feistelIgnoresUnusedSubkeys : Obligations.FeistelIgnoresUnusedSubkeys :=
  fun _ _ _ _ _ => exec_feistel_setSubkeys

/-! ### CIPHER -/

/-- CIPHER outside ERROR writes the schedule and emits the block of the adapter (42_cipher_adapter.md R155). -/
theorem exec_cipher_of_live {s : State} (hlive : s.fsm ≠ .error) (inv : Bool) :
    exec (.cipher inv) s = .next (setOutput (s.crypt Config.tables s.inputBlock inv) 0 16 (writeSchedule s)) :=
  congrArg Host.Outcome.next (unlessError_of_live hlive)

/-- One block emitted by an adapter call, and the schedule the call writes (42_cipher_adapter.md R151). -/
theorem setOutput_writeSchedule (b : Block) (k : Nat) {s : State} {ks : Vector Word 16}
    (hks : schedule s.csel s.key0 s.key1 = ks) :
    setOutput b 0 k (writeSchedule s) =
      { s with dout0 := w0 b, dout1 := w1 b, dout2 := 0, dout3 := 0, olen := Fin.ofNat 33 k, sk := ks } := by
  rw [← hks]
  rfl

/-- Under CSEL = 0 the schedule is LapSchedule (41_round_functions.md R129). -/
theorem schedule_lappland {s : State} (hcsel : s.csel = false) :
    schedule s.csel s.key0 s.key1 = lapSchedule s.key0 s.key1 := by
  rw [hcsel]
  rfl

/-- Under CSEL = 0 an adapter call is the network over LapSchedule (42_cipher_adapter.md R150). -/
theorem crypt_lappland (T : Tables) {s : State} (hcsel : s.csel = false) (b : Block) (inv : Bool) :
    s.crypt T b inv = feistelBlock (lapRound T.sboxL) (lapSchedule s.key0 s.key1).toList b inv := by
  rw [State.crypt, hcsel]
  rfl

/-- Under CSEL = 1 the schedule is MisSchedule (41_round_functions.md R129). -/
theorem schedule_misaka {s : State} (hcsel : s.csel = true) :
    schedule s.csel s.key0 s.key1 = misSchedule s.key0 s.key1 := by
  rw [hcsel]
  rfl

/-- Under CSEL = 1 an adapter call is the network over MisSchedule between two whitenings
(42_cipher_adapter.md R152). -/
theorem crypt_misaka (T : Tables) {s : State} (hcsel : s.csel = true) (b : Block) (inv : Bool) :
    s.crypt T b inv =
      whiten (feistelBlock (misRound T.sboxM) (misSchedule s.key0 s.key1).toList (whiten b s.key0 s.key1) inv)
        s.key0 s.key1 := by
  rw [State.crypt, hcsel]
  rfl

/-- Settles O48: the block of `crypt_lappland` or `crypt_misaka`, word by word. -/
theorem cipherCommandResult : Obligations.CipherCommandResult := by
  refine ⟨fun s inv hlive hcsel => ⟨_, rfl, ?_⟩, fun s inv hlive hcsel => ⟨_, rfl, ?_⟩⟩
  · rw [exec_cipher_of_live hlive, setOutput_writeSchedule _ _ (schedule_lappland hcsel), crypt_lappland _ hcsel,
      feistelBlock_inputBlock, w0_blk, w1_blk]
    rfl
  · rw [exec_cipher_of_live hlive, setOutput_writeSchedule _ _ (schedule_misaka hcsel), crypt_misaka _ hcsel]
    simp only [whiten, feistelBlock, w0_blk, w1_blk, w0_inputBlock, w1_inputBlock]
    rfl

/-- KSCHED outside ERROR is `kschedEffect` (41_round_functions.md R130). -/
theorem exec_ksched_eq_kschedEffect {s : State} (hlive : s.fsm ≠ .error) : exec .ksched s = .next (kschedEffect s) :=
  congrArg Host.Outcome.next (unlessError_of_live hlive)

/-- After KSCHED the sixteen subkeys are the schedule (41_round_functions.md R130). -/
theorem kschedEffect_subkeys (s : State) : (kschedEffect s).subkeys 16 = (schedule s.csel s.key0 s.key1).toList := by
  rw [State.subkeys, kschedEffect_sk, List.take_of_length_le (by simp)]

/-- An output after KSCHED replaces its empty one (10_state.md R34). -/
theorem setOutput_kschedEffect (a b : Block) (k : Nat) (s : State) :
    setOutput a b k (kschedEffect s) = setOutput a b k (writeSchedule s) := rfl

/-- Settles O50: after KSCHED the sixteen subkeys are the schedule CIPHER runs over, and the output of KSCHED is
overwritten. -/
theorem lapplandCipherIsFeistelOverSchedule : Obligations.LapplandCipherIsFeistelOverSchedule := by
  intro s inv hlive hcsel
  have hlive' : (kschedEffect s).fsm ≠ .error := hlive
  have hcsel' : (kschedEffect s).csel = false := hcsel
  refine ⟨_, _, exec_ksched_eq_kschedEffect hlive, exec_feistel_of_live hlive' inv (Nat.le_refl 16), ?_⟩
  rw [exec_cipher_of_live hlive, crypt_lappland _ hcsel, kschedEffect_subkeys, schedule_lappland hcsel, hcsel',
    setOutput_kschedEffect]
  rfl

end Sys2Proof.Machine
end

section
/-! The stream commands, result by result (43_cbc_mode.md R180, R186, R192, R196, R198). -/

namespace Sys2Proof.Machine

/-! ### ENC_START -/

/-- ENC_START in IDLE or DONE enciphers the two entropy words (43_cbc_mode.md R180). -/
theorem exec_encStart_iv {s : State} (h : s.fsm = .idle ∨ s.fsm = .done) {c : Block}
    (hc : c = s.crypt Config.tables (blk (entropyWords s).1 (entropyWords s).2) false) :
    exec .encStart s = .next (setFsm .enc (setOutput c 0 16 (setChain c (writeSchedule (consumeEntropy s))))) := by
  rcases encStartEffect_cases Config.tables (encode .encStart) s with ⟨hno, -⟩ | ⟨-, c', hc', heff⟩
  · exact absurd h hno
  · obtain rfl : c' = c := hc'.trans hc.symm
    exact congrArg Host.Outcome.next ((unlessError_of_live (live_of_idle_or_done h)).trans heff)

/-- Under ESRC = 1 the entropy words are ESEED and no draw is used up (10_state.md R36). -/
theorem entropy_of_esrc {s : State} (hesrc : s.esrc = true) :
    entropyWords s = (s.eseed0, s.eseed1) ∧ consumeEntropy s = s :=
  ⟨if_pos hesrc, if_pos hesrc⟩

/-- Under ESRC = 0 the entropy words are a draw from the ports, which is used up (10_state.md R38; log 2). -/
theorem entropy_of_ports {s : State} (hesrc : s.esrc = false) :
    entropyWords s = (Config.entMono s.draws, Config.entWall s.draws) ∧
      consumeEntropy s = { s with draws := s.draws + 1 } :=
  ⟨if_neg (by simp [hesrc]), if_neg (by simp [hesrc])⟩

/-- Settles O51: `exec_encStart_iv` for either entropy source. -/
theorem encStartOpensStream : Obligations.EncStartOpensStream := by
  refine ⟨fun s h hesrc => ⟨_, rfl, ?_⟩, fun s h hesrc => ⟨_, rfl, ?_⟩⟩
  · obtain ⟨hwords, hdraw⟩ := entropy_of_esrc hesrc
    rw [exec_encStart_iv h (by rw [hwords]), hdraw]
    rfl
  · obtain ⟨hwords, hdraw⟩ := entropy_of_ports hesrc
    rw [exec_encStart_iv h (by rw [hwords]), hdraw]
    rfl

/-! ### ENC_DATA -/

/-- The end of a stream as the stream state after it (43_cbc_mode.md R186, R196). -/
theorem finishIf_eq_setFsm (last : Bool) (s : State) :
    finishIf last s = setFsm (if last then .done else s.fsm) s := by
  cases last <;> rfl

/-- Two links of the encrypt chain are one with both blocks enciphered, since a link writes only SK and CV
(43_cbc_mode.md R186). -/
theorem encipherLink_encipherLink (T : Tables) (p q : Block) (s : State) :
    encipherLink T q (encipherLink T p s) =
      setChain (s.crypt T (q ^^^ s.crypt T (p ^^^ s.chainBlock) false) false) (writeSchedule s) := by
  have hlink : encipherLink T q (encipherLink T p s) =
      setChain ((encipherLink T p s).crypt T (q ^^^ (encipherLink T p s).chainBlock) false) (writeSchedule s) := rfl
  rw [hlink, encipherLink_crypt, encipherLink_chainBlock]

/-- Settles O52: one lemma on the body of ENC_DATA per case, and the end of the stream. -/
theorem encDataCases : Obligations.EncDataCases := by
  refine ⟨fun s last h hno => ⟨_, rfl, ?_⟩, fun s h hapad => ⟨_, _, rfl, rfl, ?_⟩, fun s n h hn => ⟨_, rfl, ?_⟩,
    fun s h hapad => ?_⟩
  · rw [exec_encData h (Nat.le_refl 16) (.inl rfl), encDataBody_whole _ _ hno, finishIf_eq_setFsm, setOutput_fsm,
      encipherLink_fsm, h, encipherLink_chainBlock]
    rfl
  · rw [exec_encData h (Nat.le_refl 16) (.inl rfl), encDataBody_whole_padded _ _ hapad, encipherLink_encipherLink,
      encipherLink_chainBlock, setChain_chainBlock]
    rfl
  · have hpad : n ≠ 0 ∨ s.apad = true := hn.imp (fun hn => by omega) And.right
    rw [exec_encData h (by omega) (.inr rfl), encDataBody_padded _ _ (by omega) hpad, encipherLink_chainBlock]
    rfl
  · rw [exec_encData h (by omega) (.inr rfl), encDataBody_empty _ _ hapad]
    rfl

/-! ### DEC_START and DEC_DATA -/

/-- Settles O53: `exec_decStart`, whose chaining vector is the input block. -/
theorem decStartLoadsChain : Obligations.DecStartLoadsChain := by
  intro s last h
  rw [exec_decStart h last, setChain, w0_inputBlock, w1_inputBlock]
  rfl

/-- The boundary end: DEC_DATA 0, LAST in DEC emits nothing (43_cbc_mode.md R196). -/
theorem exec_decData_empty {s : State} (h : s.fsm = .dec) :
    exec (.decData 0 true) s = .next (setFsm .done (setOutput 0 0 0 s)) := by
  rcases decDataEffect_cases Config.tables 0 true (encode (.decData 0 true)) s with
    ⟨hne, -⟩ | ⟨-, hbad, -⟩ | ⟨-, -, -, heff⟩ | ⟨-, h16, -⟩
  · exact absurd h hne
  · simp at hbad
  · have hlive : s.fsm ≠ .error := by simp [h]
    exact congrArg Host.Outcome.next ((unlessError_of_live hlive).trans heff)
  · simp at h16

/-- Settles O54: a whole block by `exec_decData_block`, the boundary end by `exec_decData_empty`. -/
theorem decDataCases : Obligations.DecDataCases := by
  refine ⟨fun s last h => ⟨_, _, rfl, exec_decData_block h last, ?_, ?_⟩, fun s h => exec_decData_empty h⟩
  · rw [finishIf_olen]
    exact Nat.mod_eq_of_lt (by split <;> omega)
  · rw [finishIf_olen, finishIf_eq_setFsm, decDataBody_fsm, h, decDataBody, setChain, w0_inputBlock, w1_inputBlock]
    rfl

/-! ### Padding -/

/-- Settles O57, by `stripLen_pad`. -/
theorem stripUndoesPad : Obligations.StripUndoesPad :=
  fun p _ => stripLen_pad p

end Sys2Proof.Machine
end
